-- ==== Sys2Proof/Word.lean ====
section
/-! DEFINITION. The word types of the hardware and the 3-byte group (spec/00_scope.md R7, R9, R12). -/

namespace Sys2Proof

/-- A byte of the instruction stream, 0 to 255 (20_memory.md R51). -/
abbrev Byte := BitVec 8

/-- `word24`, the 24-bit packed word (30_encoding.md R80). -/
abbrev Word24 := BitVec 24

/-- `word25`, the encoder's intermediate word (40_encoder.md R111). -/
abbrev Word25 := BitVec 25

/-- `word32`, the decoder's zero-extended word (41_decoder.md R131). -/
abbrev Word32 := BitVec 32

/-- A group: 3 consecutive bytes in stream order, `byte0` at the lowest offset (00_scope.md R12,
30_encoding.md R81). -/
structure Group where
  byte0 : Byte
  byte1 : Byte
  byte2 : Byte
deriving DecidableEq, Repr

end Sys2Proof
end

