-- ==== Sys2Proof/Config.lean ====
section
/-! DEFINITION. The constants the hardware fixes (00_scope.md R5). The spec leaves no value free: "There is no oracle"
(10_state.md R35), so this file declares no free value. -/

namespace Sys2Proof.Config

/-- `INSTR_BYTES` (00_scope.md R5). -/
abbrev instrBytes : Nat := 3

/-- `MEM_CELLS` (00_scope.md R5). -/
abbrev memCells : Nat := 256

/-- What a cell that the run has not written reads as (10_state.md R34, 20_memory.md R55). -/
abbrev unwrittenCell : Int := 0

/-- `A_OFF`: the opcode's bit offset (00_scope.md R5, 30_encoding.md R80). -/
abbrev opcodeOffset : Nat := 0

/-- `B_OFF`. -/
abbrev arg1Offset : Nat := 6

/-- `C_OFF`. -/
abbrev arg2Offset : Nat := 9

/-- `D_OFF`. -/
abbrev arg3Offset : Nat := 22

end Sys2Proof.Config
end

