-- ==== Sys2Proof/Syntax.lean ====
section
/-! DEFINITION. The instructions, one constructor per row of spec/opcode_table.json (30_encoding.md R86), and the
encoder's field set (00_scope.md R12). -/

namespace Sys2Proof

/-- The operand values of an instruction: `arg1` 3 bits, `arg2` 13 bits, `arg3` 3 bits of which bit 2 is 0 in every
decoded instruction (00_scope.md R9, 41_decoder.md R130; WellFormed checks that bit). -/
structure Args where
  arg1 : BitVec 3
  arg2 : BitVec 13
  arg3 : BitVec 3
deriving DecidableEq, Repr

/-- The 64 instructions, in opcode order (30_encoding.md R86). A `SKIP_n` carries the operand values its word holds,
though its meaning discards them (44_skip.md R190). -/
inductive Instr where
  /-- `SKIP_0`, opcode 0 (44_skip.md R190). -/
  | skip0 (a : Args)
  /-- `SUB_STORE`, opcode 1 (43_store_arith.md R181). -/
  | subStore (a : Args)
  /-- `SKIP_2`, opcode 2 (44_skip.md R190). -/
  | skip2 (a : Args)
  /-- `SKIP_3`, opcode 3 (44_skip.md R190). -/
  | skip3 (a : Args)
  /-- `SKIP_4`, opcode 4 (44_skip.md R190). -/
  | skip4 (a : Args)
  /-- `SKIP_5`, opcode 5 (44_skip.md R190). -/
  | skip5 (a : Args)
  /-- `SKIP_6`, opcode 6 (44_skip.md R190). -/
  | skip6 (a : Args)
  /-- `SKIP_7`, opcode 7 (44_skip.md R190). -/
  | skip7 (a : Args)
  /-- `SKIP_8`, opcode 8 (44_skip.md R190). -/
  | skip8 (a : Args)
  /-- `SKIP_9`, opcode 9 (44_skip.md R190). -/
  | skip9 (a : Args)
  /-- `SKIP_10`, opcode 10 (44_skip.md R190). -/
  | skip10 (a : Args)
  /-- `SKIP_11`, opcode 11 (44_skip.md R190). -/
  | skip11 (a : Args)
  /-- `SKIP_12`, opcode 12 (44_skip.md R190). -/
  | skip12 (a : Args)
  /-- `SKIP_13`, opcode 13 (44_skip.md R190). -/
  | skip13 (a : Args)
  /-- `SKIP_14`, opcode 14 (44_skip.md R190). -/
  | skip14 (a : Args)
  /-- `SKIP_15`, opcode 15 (44_skip.md R190). -/
  | skip15 (a : Args)
  /-- `SKIP_16`, opcode 16 (44_skip.md R190). -/
  | skip16 (a : Args)
  /-- `SKIP_17`, opcode 17 (44_skip.md R190). -/
  | skip17 (a : Args)
  /-- `SKIP_18`, opcode 18 (44_skip.md R190). -/
  | skip18 (a : Args)
  /-- `SKIP_19`, opcode 19 (44_skip.md R190). -/
  | skip19 (a : Args)
  /-- `SKIP_20`, opcode 20 (44_skip.md R190). -/
  | skip20 (a : Args)
  /-- `SKIP_21`, opcode 21 (44_skip.md R190). -/
  | skip21 (a : Args)
  /-- `SKIP_22`, opcode 22 (44_skip.md R190). -/
  | skip22 (a : Args)
  /-- `SKIP_23`, opcode 23 (44_skip.md R190). -/
  | skip23 (a : Args)
  /-- `SKIP_24`, opcode 24 (44_skip.md R190). -/
  | skip24 (a : Args)
  /-- `SKIP_25`, opcode 25 (44_skip.md R190). -/
  | skip25 (a : Args)
  /-- `SKIP_26`, opcode 26 (44_skip.md R190). -/
  | skip26 (a : Args)
  /-- `SKIP_27`, opcode 27 (44_skip.md R190). -/
  | skip27 (a : Args)
  /-- `SKIP_28`, opcode 28 (44_skip.md R190). -/
  | skip28 (a : Args)
  /-- `SKIP_29`, opcode 29 (44_skip.md R190). -/
  | skip29 (a : Args)
  /-- `ADD_STORE`, opcode 30 (43_store_arith.md R180). -/
  | addStore (a : Args)
  /-- `SKIP_31`, opcode 31 (44_skip.md R190). -/
  | skip31 (a : Args)
  /-- `SKIP_32`, opcode 32 (44_skip.md R190). -/
  | skip32 (a : Args)
  /-- `SKIP_33`, opcode 33 (44_skip.md R190). -/
  | skip33 (a : Args)
  /-- `SKIP_34`, opcode 34 (44_skip.md R190). -/
  | skip34 (a : Args)
  /-- `SKIP_35`, opcode 35 (44_skip.md R190). -/
  | skip35 (a : Args)
  /-- `SKIP_36`, opcode 36 (44_skip.md R190). -/
  | skip36 (a : Args)
  /-- `SKIP_37`, opcode 37 (44_skip.md R190). -/
  | skip37 (a : Args)
  /-- `SKIP_38`, opcode 38 (44_skip.md R190). -/
  | skip38 (a : Args)
  /-- `SKIP_39`, opcode 39 (44_skip.md R190). -/
  | skip39 (a : Args)
  /-- `SKIP_40`, opcode 40 (44_skip.md R190). -/
  | skip40 (a : Args)
  /-- `SKIP_41`, opcode 41 (44_skip.md R190). -/
  | skip41 (a : Args)
  /-- `SKIP_42`, opcode 42 (44_skip.md R190). -/
  | skip42 (a : Args)
  /-- `SKIP_43`, opcode 43 (44_skip.md R190). -/
  | skip43 (a : Args)
  /-- `SKIP_44`, opcode 44 (44_skip.md R190). -/
  | skip44 (a : Args)
  /-- `SKIP_45`, opcode 45 (44_skip.md R190). -/
  | skip45 (a : Args)
  /-- `SKIP_46`, opcode 46 (44_skip.md R190). -/
  | skip46 (a : Args)
  /-- `SKIP_47`, opcode 47 (44_skip.md R190). -/
  | skip47 (a : Args)
  /-- `SKIP_48`, opcode 48 (44_skip.md R190). -/
  | skip48 (a : Args)
  /-- `SKIP_49`, opcode 49 (44_skip.md R190). -/
  | skip49 (a : Args)
  /-- `SKIP_50`, opcode 50 (44_skip.md R190). -/
  | skip50 (a : Args)
  /-- `SKIP_51`, opcode 51 (44_skip.md R190). -/
  | skip51 (a : Args)
  /-- `SKIP_52`, opcode 52 (44_skip.md R190). -/
  | skip52 (a : Args)
  /-- `SKIP_53`, opcode 53 (44_skip.md R190). -/
  | skip53 (a : Args)
  /-- `SKIP_54`, opcode 54 (44_skip.md R190). -/
  | skip54 (a : Args)
  /-- `SKIP_55`, opcode 55 (44_skip.md R190). -/
  | skip55 (a : Args)
  /-- `SKIP_56`, opcode 56 (44_skip.md R190). -/
  | skip56 (a : Args)
  /-- `SKIP_57`, opcode 57 (44_skip.md R190). -/
  | skip57 (a : Args)
  /-- `SKIP_58`, opcode 58 (44_skip.md R190). -/
  | skip58 (a : Args)
  /-- `SKIP_59`, opcode 59 (44_skip.md R190). -/
  | skip59 (a : Args)
  /-- `SKIP_60`, opcode 60 (44_skip.md R190). -/
  | skip60 (a : Args)
  /-- `SKIP_61`, opcode 61 (44_skip.md R190). -/
  | skip61 (a : Args)
  /-- `SKIP_62`, opcode 62 (44_skip.md R190). -/
  | skip62 (a : Args)
  /-- `SKIP_63`, opcode 63 (44_skip.md R190). -/
  | skip63 (a : Args)
deriving DecidableEq, Repr

/-- The field set the encoder takes: "four named integer fields, `A`, `B`, `C` (always present) and `D` (optional)",
mathematical integers of type `Z_IN`, negative allowed (00_scope.md R6, R12; 40_encoder.md R110; decision D2). -/
structure FieldSet where
  A : Int
  B : Int
  C : Int
  D : Option Int
deriving DecidableEq, Repr

end Sys2Proof
end

