-- ==== Sys2Proof/WellFormed.lean ====
section
/-! DEFINITION. When an instruction term stands for an encoding: bit 2 of `arg3` is 0, since the stored width of D is 2
bits (30_encoding.md R84, 41_decoder.md R133, 90_conflicts.md C1). Every other operand value is admitted (R89). -/

namespace Sys2Proof

/-- `arg3` is one of 0 to 3 (41_decoder.md R133). -/
def Args.wf (a : Args) : Bool := a.arg3.toNat < 4

/-- The operands of an instruction. -/
def Instr.args : Instr → Args
  | .skip0 a => a
  | .subStore a => a
  | .skip2 a => a
  | .skip3 a => a
  | .skip4 a => a
  | .skip5 a => a
  | .skip6 a => a
  | .skip7 a => a
  | .skip8 a => a
  | .skip9 a => a
  | .skip10 a => a
  | .skip11 a => a
  | .skip12 a => a
  | .skip13 a => a
  | .skip14 a => a
  | .skip15 a => a
  | .skip16 a => a
  | .skip17 a => a
  | .skip18 a => a
  | .skip19 a => a
  | .skip20 a => a
  | .skip21 a => a
  | .skip22 a => a
  | .skip23 a => a
  | .skip24 a => a
  | .skip25 a => a
  | .skip26 a => a
  | .skip27 a => a
  | .skip28 a => a
  | .skip29 a => a
  | .addStore a => a
  | .skip31 a => a
  | .skip32 a => a
  | .skip33 a => a
  | .skip34 a => a
  | .skip35 a => a
  | .skip36 a => a
  | .skip37 a => a
  | .skip38 a => a
  | .skip39 a => a
  | .skip40 a => a
  | .skip41 a => a
  | .skip42 a => a
  | .skip43 a => a
  | .skip44 a => a
  | .skip45 a => a
  | .skip46 a => a
  | .skip47 a => a
  | .skip48 a => a
  | .skip49 a => a
  | .skip50 a => a
  | .skip51 a => a
  | .skip52 a => a
  | .skip53 a => a
  | .skip54 a => a
  | .skip55 a => a
  | .skip56 a => a
  | .skip57 a => a
  | .skip58 a => a
  | .skip59 a => a
  | .skip60 a => a
  | .skip61 a => a
  | .skip62 a => a
  | .skip63 a => a

/-- An instruction that some 3-byte group encodes. -/
def Instr.wf (i : Instr) : Bool := i.args.wf

end Sys2Proof
end

