-- ==== Sys2Proof/Decode.lean ====
section
/-! DEFINITION. DEC, the instruction decoder (41_decoder.md), and after it the encoding functions: `encode` of an
instruction and the packing function of ENC (40_encoder.md R111 to R116). -/

namespace Sys2Proof

/-- The three bytes of a group in stream order (30_encoding.md R81). -/
def Group.toBytes (g : Group) : List Byte := [g.byte0, g.byte1, g.byte2]

/-! ## DEC -/

/-- The results of `Decode` (41_decoder.md R130). -/
structure DecOut where
  word32 : Word32
  opcode : BitVec 6
  arg1 : BitVec 3
  arg2 : BitVec 13
  arg3 : BitVec 3
deriving DecidableEq, Repr

/-- "Zero-extend the 3 bytes to a 32-bit little-endian word (append one synthetic all-zero high byte)"
(41_decoder.md R131). -/
def groupWord32 (g : Group) : Word32 := 0#8 ++ g.byte2 ++ g.byte1 ++ g.byte0

/-- `Decode(byte0, byte1, byte2)`: the four fields of the zero-extended word (41_decoder.md R132). -/
def dec (g : Group) : DecOut :=
  { word32 := groupWord32 g
    opcode := (groupWord32 g).extractLsb' Config.opcodeOffset 6
    arg1 := (groupWord32 g).extractLsb' Config.arg1Offset 3
    arg2 := (groupWord32 g).extractLsb' Config.arg2Offset 13
    arg3 := (groupWord32 g).extractLsb' Config.arg3Offset 3 }

/-- The operands among the results of `Decode`. -/
def DecOut.args (d : DecOut) : Args := { arg1 := d.arg1, arg2 := d.arg2, arg3 := d.arg3 }

/-- The opcode map: each of the 64 opcode values names one instruction (30_encoding.md R86; opcode_table.json). The
last arm is no default: no 6-bit value reaches it. -/
def Instr.ofFields (op : BitVec 6) (a : Args) : Instr :=
  match op.toNat, op.isLt with
  | 0, _ => .skip0 a
  | 1, _ => .subStore a
  | 2, _ => .skip2 a
  | 3, _ => .skip3 a
  | 4, _ => .skip4 a
  | 5, _ => .skip5 a
  | 6, _ => .skip6 a
  | 7, _ => .skip7 a
  | 8, _ => .skip8 a
  | 9, _ => .skip9 a
  | 10, _ => .skip10 a
  | 11, _ => .skip11 a
  | 12, _ => .skip12 a
  | 13, _ => .skip13 a
  | 14, _ => .skip14 a
  | 15, _ => .skip15 a
  | 16, _ => .skip16 a
  | 17, _ => .skip17 a
  | 18, _ => .skip18 a
  | 19, _ => .skip19 a
  | 20, _ => .skip20 a
  | 21, _ => .skip21 a
  | 22, _ => .skip22 a
  | 23, _ => .skip23 a
  | 24, _ => .skip24 a
  | 25, _ => .skip25 a
  | 26, _ => .skip26 a
  | 27, _ => .skip27 a
  | 28, _ => .skip28 a
  | 29, _ => .skip29 a
  | 30, _ => .addStore a
  | 31, _ => .skip31 a
  | 32, _ => .skip32 a
  | 33, _ => .skip33 a
  | 34, _ => .skip34 a
  | 35, _ => .skip35 a
  | 36, _ => .skip36 a
  | 37, _ => .skip37 a
  | 38, _ => .skip38 a
  | 39, _ => .skip39 a
  | 40, _ => .skip40 a
  | 41, _ => .skip41 a
  | 42, _ => .skip42 a
  | 43, _ => .skip43 a
  | 44, _ => .skip44 a
  | 45, _ => .skip45 a
  | 46, _ => .skip46 a
  | 47, _ => .skip47 a
  | 48, _ => .skip48 a
  | 49, _ => .skip49 a
  | 50, _ => .skip50 a
  | 51, _ => .skip51 a
  | 52, _ => .skip52 a
  | 53, _ => .skip53 a
  | 54, _ => .skip54 a
  | 55, _ => .skip55 a
  | 56, _ => .skip56 a
  | 57, _ => .skip57 a
  | 58, _ => .skip58 a
  | 59, _ => .skip59 a
  | 60, _ => .skip60 a
  | 61, _ => .skip61 a
  | 62, _ => .skip62 a
  | 63, _ => .skip63 a
  | n + 64, h => absurd h (by omega)

/-- The instruction a group holds: DEC, then the opcode map. Total: "every one of the 16777216 possible 3-byte groups
decodes" (41_decoder.md R134). -/
def decodeGroup (g : Group) : Instr := Instr.ofFields (dec g).opcode (dec g).args

/-- Why bytes hold no instruction: there are fewer than 3 of them (30_encoding.md R88). No group of 3 bytes is
rejected (R87). -/
inductive DecodeError where
  | trailingFragment (available : Nat)
deriving DecidableEq, Repr

/-- The instruction at the front of a byte list, with the bytes after it (30_encoding.md R83, R88, R91). -/
def decode : List Byte → Except DecodeError (Instr × List Byte)
  | b0 :: b1 :: b2 :: rest => .ok (decodeGroup ⟨b0, b1, b2⟩, rest)
  | fragment => .error (.trailingFragment fragment.length)

/-! ## The encoding functions -/

/-- The opcode of an instruction (30_encoding.md R86). -/
def Instr.opcode : Instr → BitVec 6
  | .skip0 _ => 0#6
  | .subStore _ => 1#6
  | .skip2 _ => 2#6
  | .skip3 _ => 3#6
  | .skip4 _ => 4#6
  | .skip5 _ => 5#6
  | .skip6 _ => 6#6
  | .skip7 _ => 7#6
  | .skip8 _ => 8#6
  | .skip9 _ => 9#6
  | .skip10 _ => 10#6
  | .skip11 _ => 11#6
  | .skip12 _ => 12#6
  | .skip13 _ => 13#6
  | .skip14 _ => 14#6
  | .skip15 _ => 15#6
  | .skip16 _ => 16#6
  | .skip17 _ => 17#6
  | .skip18 _ => 18#6
  | .skip19 _ => 19#6
  | .skip20 _ => 20#6
  | .skip21 _ => 21#6
  | .skip22 _ => 22#6
  | .skip23 _ => 23#6
  | .skip24 _ => 24#6
  | .skip25 _ => 25#6
  | .skip26 _ => 26#6
  | .skip27 _ => 27#6
  | .skip28 _ => 28#6
  | .skip29 _ => 29#6
  | .addStore _ => 30#6
  | .skip31 _ => 31#6
  | .skip32 _ => 32#6
  | .skip33 _ => 33#6
  | .skip34 _ => 34#6
  | .skip35 _ => 35#6
  | .skip36 _ => 36#6
  | .skip37 _ => 37#6
  | .skip38 _ => 38#6
  | .skip39 _ => 39#6
  | .skip40 _ => 40#6
  | .skip41 _ => 41#6
  | .skip42 _ => 42#6
  | .skip43 _ => 43#6
  | .skip44 _ => 44#6
  | .skip45 _ => 45#6
  | .skip46 _ => 46#6
  | .skip47 _ => 47#6
  | .skip48 _ => 48#6
  | .skip49 _ => 49#6
  | .skip50 _ => 50#6
  | .skip51 _ => 51#6
  | .skip52 _ => 52#6
  | .skip53 _ => 53#6
  | .skip54 _ => 54#6
  | .skip55 _ => 55#6
  | .skip56 _ => 56#6
  | .skip57 _ => 57#6
  | .skip58 _ => 58#6
  | .skip59 _ => 59#6
  | .skip60 _ => 60#6
  | .skip61 _ => 61#6
  | .skip62 _ => 62#6
  | .skip63 _ => 63#6

/-- The intermediate word of masked field values: `a | (b << 6) | (c << 9) | (d << 22)` (40_encoder.md R111). -/
def pack (a : BitVec 6) (b : BitVec 3) (c : BitVec 13) (d : BitVec 3) : Word25 :=
  (a.setWidth 25 <<< Config.opcodeOffset) ||| (b.setWidth 25 <<< Config.arg1Offset) |||
    (c.setWidth 25 <<< Config.arg2Offset) ||| (d.setWidth 25 <<< Config.arg3Offset)

/-- The word result: the low 24 bits; bit 24 is dropped (40_encoder.md R112; decision D11). -/
def packedWord (w : Word25) : Word24 := w.setWidth 24

/-- The byte results: "Bytes are extracted by masking/shifting the word into three 8-bit groups"
(40_encoder.md R113). -/
def packedBytes (w : Word25) : Group :=
  { byte0 := w.extractLsb' 0 8, byte1 := w.extractLsb' 8 8, byte2 := w.extractLsb' 16 8 }

/-- The group of an instruction (30_encoding.md R80 to R82). -/
def encodeGroup (i : Instr) : Group :=
  packedBytes (pack i.opcode i.args.arg1 i.args.arg2 i.args.arg3)

/-- The bytes of an instruction in stream order. -/
def encode (i : Instr) : List Byte := (encodeGroup i).toBytes

/-- `x & (2^w - 1)` for any integer `x`: `x mod 2^w`, the two's-complement low bits (00_scope.md R8; 40_encoder.md R116,
decision D2). -/
def maskTo (w : Nat) (x : Int) : BitVec w := BitVec.ofInt w x

/-- The value ORed in for D: 0 when D is absent (40_encoder.md R111, R114). -/
def maskD : Option Int → BitVec 3
  | none => 0#3
  | some d => maskTo 3 d

/-- `word25` of a field set: every field masked, no range check (40_encoder.md R111, R115). -/
def packFields (f : FieldSet) : Word25 := pack (maskTo 6 f.A) (maskTo 3 f.B) (maskTo 13 f.C) (maskD f.D)

/-! ## The host's numbering of an instruction's bits -/

/-- The group whose bits are `w`, bit 0 the least significant bit of `byte0`; bits from `nbits` up are 0
(30_encoding.md R81). -/
def tableGroup (nbits w : Nat) : Group :=
  { byte0 := (BitVec.ofNat 24 (w % 2 ^ nbits)).extractLsb' 0 8
    byte1 := (BitVec.ofNat 24 (w % 2 ^ nbits)).extractLsb' 8 8
    byte2 := (BitVec.ofNat 24 (w % 2 ^ nbits)).extractLsb' 16 8 }

/-- The instruction the decoder reads from an instruction whose bits are `w`. -/
def decodeTableWord (nbits w : Nat) : Option Instr :=
  match decode (tableGroup nbits w).toBytes with
  | .ok (i, _) => some i
  | .error _ => none

end Sys2Proof
end

