-- ==== Sys2Proof/Machine/State.lean ====
section
/-! DEFINITION. The machine's state (10_state.md R34), its reset value, and the reasons a step can stop. -/

namespace Sys2Proof.Machine

/-- MEM: 256 integer cells (10_state.md R28, 20_memory.md R53), as the list of the cells that differ from what an
unwritten cell reads as, with their indices. `Memory.wf` is its one canonical form. Cells are mathematical integers
(decision D3). -/
abbrev Memory := List (Nat × Int)

/-- The canonical form: indices strictly rising, every index a cell of MEM, no entry equal to an unwritten cell. -/
abbrev Memory.wf (m : Memory) : Prop :=
  (m.map Prod.fst).Pairwise (· < ·) ∧ ∀ e ∈ m, e.1 < Config.memCells ∧ e.2 ≠ Config.unwrittenCell

/-- An index of a cell that exists, 0 to 255 (20_memory.md R53). -/
abbrev CellIndex := Fin Config.memCells

/-- The phase of the interpreter (10_state.md R25). -/
inductive Phase where
  /-- No run in progress, before any launch. -/
  | idle
  /-- A run was launched and accepted; `pos` and MEM are live. -/
  | running
  /-- "Stream exhausted": the result is available and the host has not taken it yet. -/
  | done
  /-- The launch was refused with `RangeFault`. -/
  | rejected
deriving DecidableEq, Repr

/-- The record ENC appends to `batch` (10_state.md R27): the literal unmasked fields, the packed word, the bytes. -/
structure InstrRecord where
  fields : FieldSet
  word : Word24
  bytes : Group
deriving DecidableEq, Repr

/-- A log entry `(A, B, C, D, byte0, byte1, byte2)` with the literal field values (10_state.md R31, decision D10). -/
structure LogEntry where
  fields : FieldSet
  bytes : Group
deriving DecidableEq, Repr

/-- What `Run` gives the host (42_interpreter_fsm.md R150). -/
inductive RunResult where
  /-- The result slice: pairs of an address and its value, ascending (R158). -/
  | cells (pairs : List (Nat × Int))
  /-- `RangeFault(start, end)` in place of the slice (60_exceptions.md R200, R206). -/
  | rangeFault (rangeStart rangeEnd : Nat)
deriving DecidableEq, Repr

/-- An operation the host asks for (70_reset_and_hazards.md R237). -/
inductive Request where
  /-- The start of an assembly: ENC is reset (R231). -/
  | beginAssembly
  /-- One `Encode(A, B, C, D)` (40_encoder.md R110). -/
  | encode (f : FieldSet)
  /-- The host takes the answer of the latest `Run`, and asks for nothing more (42_interpreter_fsm.md R158). -/
  | takeResult
  /-- `Run(stream, start, end)` (42_interpreter_fsm.md R150). -/
  | run (stream : List Byte) (rangeStart rangeEnd : Nat)
deriving DecidableEq, Repr

/-- The whole state. The first seven fields are the spec's (10_state.md R34); the last three are the model's own, and
hold the arguments and the answer of the host's operations (log entries 3, 4 and 5). -/
structure State where
  /-- MEM (R28). -/
  mem : Memory
  /-- The stream position, the program counter (R21). -/
  pos : Nat
  /-- The interpreter's phase (R25). -/
  phase : Phase
  /-- First cell index reported (R24); 0 in IDLE, where the spec gives none (log entry 2). -/
  rangeStart : Nat
  /-- Exclusive last cell index reported (R24); 0 in IDLE, where the spec gives none (log entry 2). -/
  rangeEnd : Nat
  /-- ENC's records, in call order (R30). -/
  batch : List InstrRecord
  /-- ENC's log, in call order (R31). -/
  log : List LogEntry
  /-- The stream of the current run, an argument of `Run` (R29). -/
  stream : List Byte
  /-- The host's operations not served yet, oldest first. -/
  requests : List Request
  /-- The answer to the latest `Run`, once it has ended, also after the host has taken it. -/
  result : Option RunResult
deriving DecidableEq, Repr

/-- Why the machine stops with a fault. -/
inductive Fault where
  /-- Raised by the result slice when it is asked for a cell index that does not exist (20_memory.md R53). The launch
  check keeps every run from it (42_interpreter_fsm.md R152), so only a state that no run reaches raises it; safe. -/
  | noSuchCell (index : Nat)
deriving DecidableEq, Repr

/-- Why no transition is enabled. -/
inductive Refusal where
  /-- Raised by `exec` for an instruction without a meaning; none is left. Safe. -/
  | notModelled (mnemonic : String)
  /-- Raised by `step` in IDLE when the host has asked for nothing: no run is in progress (10_state.md R25). Safe. -/
  | noRequest
  /-- Raised by `step` in DONE when the host has asked for nothing: "stream exhausted" has no outgoing transition
  (10_state.md R25). Safe. -/
  | streamExhausted
  /-- Raised by `step` in REJECTED when the host has asked for nothing: the launch was refused and REJECTED is treated
  as a refusal (60_exceptions.md R201). Safe. -/
  | rangeFault (rangeStart rangeEnd : Nat)
deriving DecidableEq, Repr

/-- After reset, before any launch and any assembly: `pos`, `phase`, `batch` and `log` as the spec says (10_state.md R34).
DESIGN CHOICE for the rest: MEM has no content in IDLE (R25), and `mem` holds the placeholder of log entry 1; the range,
the stream, the requests and the result have no reset value in the spec (log entries 2 to 5). -/
def State.reset : State where
  mem := []
  pos := 0
  phase := .idle
  rangeStart := 0
  rangeEnd := 0
  batch := []
  log := []
  stream := []
  requests := []
  result := none

end Sys2Proof.Machine
end

