-- ==== Sys2Proof/Machine/Ops.lean ====
section
/-! DEFINITION. The operations over memory, the stream and the program counter that the meanings share, and the raising
of `RangeFault`, the only exception (60_exceptions.md R200). -/

namespace Sys2Proof.Machine

/-! ## MEM (20_memory.md R53 to R55) -/

/-- The value held for an index: the listed one, or that of an unwritten cell. -/
def cellAt (m : Memory) (a : Nat) : Int := (m.lookup a).getD Config.unwrittenCell

/-- `MemRead(addr, 1)`, defined for the cells that exist (20_memory.md R55). -/
def memRead (m : Memory) (a : Nat) : Option Int := if a < Config.memCells then some (cellAt m a) else none

/-- The memory without an entry for the index. -/
def eraseCell (a : Nat) (m : Memory) : Memory := m.filter fun e => e.1 ≠ a

/-- The memory with an entry put in at its place. -/
def insertCell (a : Nat) (v : Int) : Memory → Memory
  | [] => [(a, v)]
  | e :: rest => if a < e.1 then (a, v) :: e :: rest else e :: insertCell a v rest

/-- `MemWrite(addr, 1, v)`: the cell takes the value, every other cell keeps its own (20_memory.md R54). -/
def memWrite (m : Memory) (a : CellIndex) (v : Int) : Memory :=
  if v = Config.unwrittenCell then eraseCell a m else insertCell a v (eraseCell a m)

/-- "a freshly zeroed 256-cell memory array" (42_interpreter_fsm.md R152, 70_reset_and_hazards.md R230). -/
def zeroedMemory : Memory := []

/-- The cells from an index on, paired with their indices, or the first index that is no cell's. -/
def sliceFrom (m : Memory) (a : Nat) : Nat → Except Nat (List (Nat × Int))
  | 0 => .ok []
  | n + 1 =>
    match memRead m a with
    | none => .error a
    | some v =>
      match sliceFrom m (a + 1) n with
      | .error e => .error e
      | .ok rest => .ok ((a, v) :: rest)

/-- The value of a cell as a claim may read it: MEM exists only in an accepted run, until its result is taken, so there is
no value in IDLE and REJECTED (93_implementation_defined.md U8; 10_state.md R25; 42_interpreter_fsm.md R158;
60_exceptions.md R201). -/
def State.cell? (s : State) (a : Nat) : Option Int :=
  match s.phase with
  | .running | .done => memRead s.mem a
  | .idle | .rejected => none

/-- A store of one whole cell (43_store_arith.md R183). -/
def storeCell (a : CellIndex) (v : Int) (s : State) : State := { s with mem := memWrite s.mem a v }

/-! ## The stream and `pos` (20_memory.md R51, R52; 10_state.md R21, R22) -/

/-- `StreamRead(off, n)`, defined when `off + n <= N` (20_memory.md R52). -/
def streamRead (stream : List Byte) (off n : Nat) : Option (List Byte) :=
  if off + n ≤ stream.length then some ((stream.drop off).take n) else none

/-- The group at `pos`, where there is one (42_interpreter_fsm.md R153, R154). -/
def fetch (s : State) : Option Group :=
  match streamRead s.stream s.pos Config.instrBytes with
  | some [b0, b1, b2] => some ⟨b0, b1, b2⟩
  | _ => none

/-- `pos <- pos + 3`, which every instruction does (10_state.md R22). -/
def advance (s : State) : State := { s with pos := s.pos + Config.instrBytes }

/-- The stream with a group put at an offset, zero bytes before it where the stream is too short. -/
def placeAt (stream : List Byte) (off : Nat) (g : Group) : List Byte :=
  (stream ++ List.replicate off 0#8).take off ++ g.toBytes ++ stream.drop (off + Config.instrBytes)

/-- A run in progress whose next group is the given one (log entry 6). -/
def placeNextGroup (g : Group) (s : State) : State :=
  { s with phase := .running, stream := placeAt s.stream s.pos g }

/-! ## The one exception (60_exceptions.md R200, R201, R206) -/

/-- `raise RangeFault(start, end)`: `phase <- REJECTED`, and the host gets the pair in place of a slice. There is no
handler and no return from it (R206, R207). -/
def raiseRangeFault (start stop : Nat) (s : State) : State :=
  { s with phase := .rejected, result := some (.rangeFault start stop) }

end Sys2Proof.Machine
end

