-- ==== Sys2Proof/Machine/Operands.lean ====
section
/-! DEFINITION. The operands of the store-arithmetic instructions and their two operations (30_encoding.md R85,
43_store_arith.md R180 to R183). There are no operand modes. -/

namespace Sys2Proof.Machine

/-- The destination cell: the 3-bit `arg1` used as it stands, always one of the cells (43_store_arith.md R183). -/
def destCell (a : Args) : CellIndex := ⟨a.arg1.toNat, Nat.lt_of_lt_of_le a.arg1.isLt (by decide)⟩

/-- The first source value: `arg2`, unsigned (30_encoding.md R85). -/
def source1 (a : Args) : Int := a.arg2.toNat

/-- The second source value: `arg3`, unsigned (30_encoding.md R85). -/
def source2 (a : Args) : Int := a.arg3.toNat

/-- `arg2 + arg3`, the exact sum (43_store_arith.md R180, R182). -/
def sumOf (a : Args) : Int := source1 a + source2 a

/-- `arg2 - arg3`, the exact difference, negative when `arg2 < arg3` (43_store_arith.md R181, decision D3). -/
def differenceOf (a : Args) : Int := source1 a - source2 a

end Sys2Proof.Machine
end

