-- ==== Sys2Proof/Machine/Skip.lean ====
section
/-! DEFINITION. The meanings of the 62 unrecognised opcodes `SKIP_n`: "instruction is silently skipped — not an error, no
log, no side effect" (44_skip.md R190, R191). -/

namespace Sys2Proof.Machine

/-- What every `SKIP_n` does: its operands are decoded and discarded, `pos <- pos + 3` (44_skip.md R190). -/
def skipInstr (_operands : Args) (s : State) : Host.Outcome State Fault Refusal := .next (advance s)

/-- `SKIP_0` (44_skip.md R190). -/
def execSkip0 (a : Args) (s : State) : Host.Outcome State Fault Refusal := skipInstr a s

/-- `SKIP_2` (44_skip.md R190). -/
def execSkip2 (a : Args) (s : State) : Host.Outcome State Fault Refusal := skipInstr a s

/-- `SKIP_3` (44_skip.md R190). -/
def execSkip3 (a : Args) (s : State) : Host.Outcome State Fault Refusal := skipInstr a s

/-- `SKIP_4` (44_skip.md R190). -/
def execSkip4 (a : Args) (s : State) : Host.Outcome State Fault Refusal := skipInstr a s

/-- `SKIP_5` (44_skip.md R190). -/
def execSkip5 (a : Args) (s : State) : Host.Outcome State Fault Refusal := skipInstr a s

/-- `SKIP_6` (44_skip.md R190). -/
def execSkip6 (a : Args) (s : State) : Host.Outcome State Fault Refusal := skipInstr a s

/-- `SKIP_7` (44_skip.md R190). -/
def execSkip7 (a : Args) (s : State) : Host.Outcome State Fault Refusal := skipInstr a s

/-- `SKIP_8` (44_skip.md R190). -/
def execSkip8 (a : Args) (s : State) : Host.Outcome State Fault Refusal := skipInstr a s

/-- `SKIP_9` (44_skip.md R190). -/
def execSkip9 (a : Args) (s : State) : Host.Outcome State Fault Refusal := skipInstr a s

/-- `SKIP_10` (44_skip.md R190). -/
def execSkip10 (a : Args) (s : State) : Host.Outcome State Fault Refusal := skipInstr a s

/-- `SKIP_11` (44_skip.md R190). -/
def execSkip11 (a : Args) (s : State) : Host.Outcome State Fault Refusal := skipInstr a s

/-- `SKIP_12` (44_skip.md R190). -/
def execSkip12 (a : Args) (s : State) : Host.Outcome State Fault Refusal := skipInstr a s

/-- `SKIP_13` (44_skip.md R190). -/
def execSkip13 (a : Args) (s : State) : Host.Outcome State Fault Refusal := skipInstr a s

/-- `SKIP_14` (44_skip.md R190). -/
def execSkip14 (a : Args) (s : State) : Host.Outcome State Fault Refusal := skipInstr a s

/-- `SKIP_15` (44_skip.md R190). -/
def execSkip15 (a : Args) (s : State) : Host.Outcome State Fault Refusal := skipInstr a s

/-- `SKIP_16` (44_skip.md R190). -/
def execSkip16 (a : Args) (s : State) : Host.Outcome State Fault Refusal := skipInstr a s

/-- `SKIP_17` (44_skip.md R190). -/
def execSkip17 (a : Args) (s : State) : Host.Outcome State Fault Refusal := skipInstr a s

/-- `SKIP_18` (44_skip.md R190). -/
def execSkip18 (a : Args) (s : State) : Host.Outcome State Fault Refusal := skipInstr a s

/-- `SKIP_19` (44_skip.md R190). -/
def execSkip19 (a : Args) (s : State) : Host.Outcome State Fault Refusal := skipInstr a s

/-- `SKIP_20` (44_skip.md R190). -/
def execSkip20 (a : Args) (s : State) : Host.Outcome State Fault Refusal := skipInstr a s

/-- `SKIP_21` (44_skip.md R190). -/
def execSkip21 (a : Args) (s : State) : Host.Outcome State Fault Refusal := skipInstr a s

/-- `SKIP_22` (44_skip.md R190). -/
def execSkip22 (a : Args) (s : State) : Host.Outcome State Fault Refusal := skipInstr a s

/-- `SKIP_23` (44_skip.md R190). -/
def execSkip23 (a : Args) (s : State) : Host.Outcome State Fault Refusal := skipInstr a s

/-- `SKIP_24` (44_skip.md R190). -/
def execSkip24 (a : Args) (s : State) : Host.Outcome State Fault Refusal := skipInstr a s

/-- `SKIP_25` (44_skip.md R190). -/
def execSkip25 (a : Args) (s : State) : Host.Outcome State Fault Refusal := skipInstr a s

/-- `SKIP_26` (44_skip.md R190). -/
def execSkip26 (a : Args) (s : State) : Host.Outcome State Fault Refusal := skipInstr a s

/-- `SKIP_27` (44_skip.md R190). -/
def execSkip27 (a : Args) (s : State) : Host.Outcome State Fault Refusal := skipInstr a s

/-- `SKIP_28` (44_skip.md R190). -/
def execSkip28 (a : Args) (s : State) : Host.Outcome State Fault Refusal := skipInstr a s

/-- `SKIP_29` (44_skip.md R190). -/
def execSkip29 (a : Args) (s : State) : Host.Outcome State Fault Refusal := skipInstr a s

/-- `SKIP_31` (44_skip.md R190). -/
def execSkip31 (a : Args) (s : State) : Host.Outcome State Fault Refusal := skipInstr a s

/-- `SKIP_32` (44_skip.md R190). -/
def execSkip32 (a : Args) (s : State) : Host.Outcome State Fault Refusal := skipInstr a s

/-- `SKIP_33` (44_skip.md R190). -/
def execSkip33 (a : Args) (s : State) : Host.Outcome State Fault Refusal := skipInstr a s

/-- `SKIP_34` (44_skip.md R190). -/
def execSkip34 (a : Args) (s : State) : Host.Outcome State Fault Refusal := skipInstr a s

/-- `SKIP_35` (44_skip.md R190). -/
def execSkip35 (a : Args) (s : State) : Host.Outcome State Fault Refusal := skipInstr a s

/-- `SKIP_36` (44_skip.md R190). -/
def execSkip36 (a : Args) (s : State) : Host.Outcome State Fault Refusal := skipInstr a s

/-- `SKIP_37` (44_skip.md R190). -/
def execSkip37 (a : Args) (s : State) : Host.Outcome State Fault Refusal := skipInstr a s

/-- `SKIP_38` (44_skip.md R190). -/
def execSkip38 (a : Args) (s : State) : Host.Outcome State Fault Refusal := skipInstr a s

/-- `SKIP_39` (44_skip.md R190). -/
def execSkip39 (a : Args) (s : State) : Host.Outcome State Fault Refusal := skipInstr a s

/-- `SKIP_40` (44_skip.md R190). -/
def execSkip40 (a : Args) (s : State) : Host.Outcome State Fault Refusal := skipInstr a s

/-- `SKIP_41` (44_skip.md R190). -/
def execSkip41 (a : Args) (s : State) : Host.Outcome State Fault Refusal := skipInstr a s

/-- `SKIP_42` (44_skip.md R190). -/
def execSkip42 (a : Args) (s : State) : Host.Outcome State Fault Refusal := skipInstr a s

/-- `SKIP_43` (44_skip.md R190). -/
def execSkip43 (a : Args) (s : State) : Host.Outcome State Fault Refusal := skipInstr a s

/-- `SKIP_44` (44_skip.md R190). -/
def execSkip44 (a : Args) (s : State) : Host.Outcome State Fault Refusal := skipInstr a s

/-- `SKIP_45` (44_skip.md R190). -/
def execSkip45 (a : Args) (s : State) : Host.Outcome State Fault Refusal := skipInstr a s

/-- `SKIP_46` (44_skip.md R190). -/
def execSkip46 (a : Args) (s : State) : Host.Outcome State Fault Refusal := skipInstr a s

/-- `SKIP_47` (44_skip.md R190). -/
def execSkip47 (a : Args) (s : State) : Host.Outcome State Fault Refusal := skipInstr a s

/-- `SKIP_48` (44_skip.md R190). -/
def execSkip48 (a : Args) (s : State) : Host.Outcome State Fault Refusal := skipInstr a s

/-- `SKIP_49` (44_skip.md R190). -/
def execSkip49 (a : Args) (s : State) : Host.Outcome State Fault Refusal := skipInstr a s

/-- `SKIP_50` (44_skip.md R190). -/
def execSkip50 (a : Args) (s : State) : Host.Outcome State Fault Refusal := skipInstr a s

/-- `SKIP_51` (44_skip.md R190). -/
def execSkip51 (a : Args) (s : State) : Host.Outcome State Fault Refusal := skipInstr a s

/-- `SKIP_52` (44_skip.md R190). -/
def execSkip52 (a : Args) (s : State) : Host.Outcome State Fault Refusal := skipInstr a s

/-- `SKIP_53` (44_skip.md R190). -/
def execSkip53 (a : Args) (s : State) : Host.Outcome State Fault Refusal := skipInstr a s

/-- `SKIP_54` (44_skip.md R190). -/
def execSkip54 (a : Args) (s : State) : Host.Outcome State Fault Refusal := skipInstr a s

/-- `SKIP_55` (44_skip.md R190). -/
def execSkip55 (a : Args) (s : State) : Host.Outcome State Fault Refusal := skipInstr a s

/-- `SKIP_56` (44_skip.md R190). -/
def execSkip56 (a : Args) (s : State) : Host.Outcome State Fault Refusal := skipInstr a s

/-- `SKIP_57` (44_skip.md R190). -/
def execSkip57 (a : Args) (s : State) : Host.Outcome State Fault Refusal := skipInstr a s

/-- `SKIP_58` (44_skip.md R190). -/
def execSkip58 (a : Args) (s : State) : Host.Outcome State Fault Refusal := skipInstr a s

/-- `SKIP_59` (44_skip.md R190). -/
def execSkip59 (a : Args) (s : State) : Host.Outcome State Fault Refusal := skipInstr a s

/-- `SKIP_60` (44_skip.md R190). -/
def execSkip60 (a : Args) (s : State) : Host.Outcome State Fault Refusal := skipInstr a s

/-- `SKIP_61` (44_skip.md R190). -/
def execSkip61 (a : Args) (s : State) : Host.Outcome State Fault Refusal := skipInstr a s

/-- `SKIP_62` (44_skip.md R190). -/
def execSkip62 (a : Args) (s : State) : Host.Outcome State Fault Refusal := skipInstr a s

/-- `SKIP_63` (44_skip.md R190). -/
def execSkip63 (a : Args) (s : State) : Host.Outcome State Fault Refusal := skipInstr a s

end Sys2Proof.Machine
end

