-- ==== Sys2Proof/Machine/StoreArith.lean ====
section
/-! DEFINITION. The meanings of ADD_STORE and SUB_STORE (43_store_arith.md). -/

namespace Sys2Proof.Machine

/-- `ADD_STORE`: `mem[arg1] <- arg2 + arg3; pos <- pos + 3` (43_store_arith.md R180). -/
def execAddStore (a : Args) (s : State) : Host.Outcome State Fault Refusal :=
  .next (advance (storeCell (destCell a) (sumOf a) s))

/-- `SUB_STORE`: `mem[arg1] <- arg2 - arg3; pos <- pos + 3` (43_store_arith.md R181). -/
def execSubStore (a : Args) (s : State) : Host.Outcome State Fault Refusal :=
  .next (advance (storeCell (destCell a) (differenceOf a) s))

end Sys2Proof.Machine
end

