-- ==== Sys2Proof/Machine/Dispatch.lean ====
section
/-! DEFINITION. The dispatch of an instruction to its meaning (42_interpreter_fsm.md R155): one arm per constructor. -/

namespace Sys2Proof.Machine

def exec (i : Instr) (s : State) : Host.Outcome State Fault Refusal :=
  match i with
  | .skip0 a => Sys2Proof.Machine.execSkip0 a s
  | .subStore a => Sys2Proof.Machine.execSubStore a s
  | .skip2 a => Sys2Proof.Machine.execSkip2 a s
  | .skip3 a => Sys2Proof.Machine.execSkip3 a s
  | .skip4 a => Sys2Proof.Machine.execSkip4 a s
  | .skip5 a => Sys2Proof.Machine.execSkip5 a s
  | .skip6 a => Sys2Proof.Machine.execSkip6 a s
  | .skip7 a => Sys2Proof.Machine.execSkip7 a s
  | .skip8 a => Sys2Proof.Machine.execSkip8 a s
  | .skip9 a => Sys2Proof.Machine.execSkip9 a s
  | .skip10 a => Sys2Proof.Machine.execSkip10 a s
  | .skip11 a => Sys2Proof.Machine.execSkip11 a s
  | .skip12 a => Sys2Proof.Machine.execSkip12 a s
  | .skip13 a => Sys2Proof.Machine.execSkip13 a s
  | .skip14 a => Sys2Proof.Machine.execSkip14 a s
  | .skip15 a => Sys2Proof.Machine.execSkip15 a s
  | .skip16 a => Sys2Proof.Machine.execSkip16 a s
  | .skip17 a => Sys2Proof.Machine.execSkip17 a s
  | .skip18 a => Sys2Proof.Machine.execSkip18 a s
  | .skip19 a => Sys2Proof.Machine.execSkip19 a s
  | .skip20 a => Sys2Proof.Machine.execSkip20 a s
  | .skip21 a => Sys2Proof.Machine.execSkip21 a s
  | .skip22 a => Sys2Proof.Machine.execSkip22 a s
  | .skip23 a => Sys2Proof.Machine.execSkip23 a s
  | .skip24 a => Sys2Proof.Machine.execSkip24 a s
  | .skip25 a => Sys2Proof.Machine.execSkip25 a s
  | .skip26 a => Sys2Proof.Machine.execSkip26 a s
  | .skip27 a => Sys2Proof.Machine.execSkip27 a s
  | .skip28 a => Sys2Proof.Machine.execSkip28 a s
  | .skip29 a => Sys2Proof.Machine.execSkip29 a s
  | .addStore a => Sys2Proof.Machine.execAddStore a s
  | .skip31 a => Sys2Proof.Machine.execSkip31 a s
  | .skip32 a => Sys2Proof.Machine.execSkip32 a s
  | .skip33 a => Sys2Proof.Machine.execSkip33 a s
  | .skip34 a => Sys2Proof.Machine.execSkip34 a s
  | .skip35 a => Sys2Proof.Machine.execSkip35 a s
  | .skip36 a => Sys2Proof.Machine.execSkip36 a s
  | .skip37 a => Sys2Proof.Machine.execSkip37 a s
  | .skip38 a => Sys2Proof.Machine.execSkip38 a s
  | .skip39 a => Sys2Proof.Machine.execSkip39 a s
  | .skip40 a => Sys2Proof.Machine.execSkip40 a s
  | .skip41 a => Sys2Proof.Machine.execSkip41 a s
  | .skip42 a => Sys2Proof.Machine.execSkip42 a s
  | .skip43 a => Sys2Proof.Machine.execSkip43 a s
  | .skip44 a => Sys2Proof.Machine.execSkip44 a s
  | .skip45 a => Sys2Proof.Machine.execSkip45 a s
  | .skip46 a => Sys2Proof.Machine.execSkip46 a s
  | .skip47 a => Sys2Proof.Machine.execSkip47 a s
  | .skip48 a => Sys2Proof.Machine.execSkip48 a s
  | .skip49 a => Sys2Proof.Machine.execSkip49 a s
  | .skip50 a => Sys2Proof.Machine.execSkip50 a s
  | .skip51 a => Sys2Proof.Machine.execSkip51 a s
  | .skip52 a => Sys2Proof.Machine.execSkip52 a s
  | .skip53 a => Sys2Proof.Machine.execSkip53 a s
  | .skip54 a => Sys2Proof.Machine.execSkip54 a s
  | .skip55 a => Sys2Proof.Machine.execSkip55 a s
  | .skip56 a => Sys2Proof.Machine.execSkip56 a s
  | .skip57 a => Sys2Proof.Machine.execSkip57 a s
  | .skip58 a => Sys2Proof.Machine.execSkip58 a s
  | .skip59 a => Sys2Proof.Machine.execSkip59 a s
  | .skip60 a => Sys2Proof.Machine.execSkip60 a s
  | .skip61 a => Sys2Proof.Machine.execSkip61 a s
  | .skip62 a => Sys2Proof.Machine.execSkip62 a s
  | .skip63 a => Sys2Proof.Machine.execSkip63 a s

end Sys2Proof.Machine
end

