-- ==== Sys2Proof/Machine/Encoder.lean ====
section
/-! DEFINITION. ENC: the effect of `Encode` on `batch` and `log`, the reset of ENC, and an assembly
(40_encoder.md R118 to R120; 70_reset_and_hazards.md R231). The packing function is in Sys2Proof/Decode.lean. -/

namespace Sys2Proof.Machine

/-- The record of one `Encode` call: literal fields, `word24`, the three bytes (10_state.md R27; 40_encoder.md R118). -/
def recordOf (f : FieldSet) : InstrRecord :=
  { fields := f, word := packedWord (packFields f), bytes := packedBytes (packFields f) }

/-- The log entry of one `Encode` call: the literal field values and the three bytes (40_encoder.md R119). -/
def logEntryOf (f : FieldSet) : LogEntry := { fields := f, bytes := packedBytes (packFields f) }

/-- `Encode(A, B, C, D)`: one record appended to `batch`, one entry to `log`; it cannot fail
(40_encoder.md R117 to R119). -/
def encodeCall (f : FieldSet) (s : State) : State :=
  { s with batch := s.batch ++ [recordOf f], log := s.log ++ [logEntryOf f] }

/-- The start of an assembly: `batch` and `log` are empty (70_reset_and_hazards.md R231, decision D12). -/
def resetEncoder (s : State) : State := { s with batch := [], log := [] }

/-- `Assemble(lines)`: ENC reset, then one `Encode` per line in order (40_encoder.md R120). -/
def assemble (lines : List FieldSet) (s : State) : State :=
  lines.foldl (fun t f => encodeCall f t) (resetEncoder s)

/-- The binary output: the bytes of every record in order (10_state.md R30; 40_encoder.md R120). -/
def binaryOutput (s : State) : List Byte := s.batch.flatMap fun r => r.bytes.toBytes

end Sys2Proof.Machine
end

