-- ==== Sys2Proof/Machine/Interpreter.lean ====
section
/-! DEFINITION. INT outside its instructions: launch, termination and the result slice (42_interpreter_fsm.md R152, R156,
R158). -/

namespace Sys2Proof.Machine

/-- The range request is legal: `start <= end <= 256` (10_state.md R24, 60_exceptions.md R200, decision D5). -/
def legalRange (start stop : Nat) : Bool := start ≤ stop && stop ≤ Config.memCells

/-- IDLE once the host has taken the answer of a run: "After the result is taken MEM is discarded"
(42_interpreter_fsm.md R158; 93_implementation_defined.md U8). The answer is the host's and stays in `result` (log entry
5). DESIGN CHOICE for the range: it is an argument of its launch and "not persistent state" (10_state.md R24; U9), with no
value in the spec here; both fields go back to the 0 of log entry 2. `pos` 0 is log entry 8, the empty stream log entry
3, the memory the placeholder of log entry 1. -/
def discardRun (s : State) : State :=
  { s with mem := zeroedMemory, pos := 0, phase := .idle, rangeStart := 0, rangeEnd := 0, stream := [] }

/-- IDLE with fresh state: "Nothing survives from one run to the next" (70_reset_and_hazards.md R230; 10_state.md
R25). -/
def freshRun (s : State) : State := { discardRun s with result := none }

/-- The launch of `Run(stream, start, end)` (42_interpreter_fsm.md R152): latch the range, check it, then either
`RangeFault` or a run from offset 0 against zeroed memory. -/
def launch (stream : List Byte) (start stop : Nat) (s : State) : State :=
  let latched := { freshRun s with rangeStart := start, rangeEnd := stop }
  if legalRange start stop then
    { latched with mem := zeroedMemory, pos := 0, stream := stream, phase := .running }
  else
    raiseRangeFault start stop latched

/-- The end of a run (42_interpreter_fsm.md R156, R158): `phase <- DONE`, and the cells `[start, end)` paired with their
addresses are the result. A cell that does not exist is a fault; the launch check keeps every run from it. -/
def finishRun (s : State) : Host.Outcome State Fault Refusal :=
  match sliceFrom s.mem s.rangeStart (s.rangeEnd - s.rangeStart) with
  | .ok pairs => .next { s with phase := .done, result := some (.cells pairs) }
  | .error a => .fault (.noSuchCell a)

end Sys2Proof.Machine
end

