-- ==== Sys2Proof/Machine/Requests.lean ====
section
/-! DEFINITION. The host's operations (70_reset_and_hazards.md R237), served one a step, oldest first, while no run is in
progress (00_scope.md R11; log entry 4). An operation gives the host its answer before the next one begins, so serving a
request starts with the run before it taken and discarded (log entry 8). -/

namespace Sys2Proof.Machine

/-- The effect of one operation of the host, on a state in IDLE. -/
def serveRequest (r : Request) (s : State) : State :=
  match r with
  | .beginAssembly => resetEncoder s
  | .encode f => encodeCall f s
  | .takeResult => s
  | .run stream start stop => launch stream start stop s

/-- The oldest request served, from IDLE with the run before it discarded (42_interpreter_fsm.md R158; 10_state.md R25),
or the given refusal when there is none. -/
def serve (none? : Refusal) (s : State) : Host.Outcome State Fault Refusal :=
  match s.requests with
  | [] => .refused none?
  | r :: rest => .next (serveRequest r (discardRun { s with requests := rest }))

end Sys2Proof.Machine
end

