-- ==== Sys2Proof/Machine/Step.lean ====
section
/-! DEFINITION. One step of the machine (42_interpreter_fsm.md R151 to R156), and the placing of an instruction where
the next step fetches it. -/

namespace Sys2Proof.Machine

/-- In RUNNING: one group fetched, decoded and executed, or, when fewer than 3 bytes remain, the end of the run
(42_interpreter_fsm.md R153, R154, R156). Outside a run: the host's oldest request (log entry 4), or no transition. -/
def step (s : State) : Host.Outcome State Fault Refusal :=
  match s.phase with
  | .running =>
    match fetch s with
    | some g => exec (decodeGroup g) s
    | none => finishRun s
  | .idle => serve .noRequest s
  | .done => serve .streamExhausted s
  | .rejected => serve (.rangeFault s.rangeStart s.rangeEnd) s

/-- The state whose next step fetches and runs the instruction whose bits are `w`: the launch of a run from outside,
with the group at `pos` (log entry 6). -/
def State.withFetchWord (s : State) (nbits w : Nat) : State := placeNextGroup (tableGroup nbits w) s

end Sys2Proof.Machine
end

