-- ==== Sys2Proof/Safety.lean ====
section
/-! DEFINITION. What claims about whole runs are said with: the effect of a group in the spec's arithmetic
(42_interpreter_fsm.md R154, R161), the invariant of the state (10_state.md R36), and the phase transitions
(10_state.md R25). -/

namespace Sys2Proof.Machine

/-! ## The effect of a stream on MEM, in the source's formulas -/

/-- `byte0 + 256*byte1 + 65536*byte2` (41_decoder.md R131). -/
def groupNat (g : Group) : Nat := g.byte0.toNat + 256 * g.byte1.toNat + 65536 * g.byte2.toNat

/-- The step's dispatch as the source writes it, on the fields of the word as numbers
(41_decoder.md R132, 42_interpreter_fsm.md R154). -/
def groupEffect (g : Group) (m : Memory) : Memory :=
  let w := groupNat g
  let dest : CellIndex := ⟨w / 64 % 8, by simp only [Config.memCells]; omega⟩
  let arg2 : Int := (w / 512 % 8192 : Nat)
  let arg3 : Int := (w / 4194304 % 8 : Nat)
  if w % 64 = 30 then memWrite m dest (arg2 + arg3)
  else if w % 64 = 1 then memWrite m dest (arg2 - arg3)
  else m

/-- The left fold of the step over the complete groups of a stream; a trailing fragment has no effect
(42_interpreter_fsm.md R157, R161). -/
def streamEffect : List Byte → Memory → Memory
  | b0 :: b1 :: b2 :: rest, m => streamEffect rest (groupEffect ⟨b0, b1, b2⟩ m)
  | _, m => m

/-- The complete groups of a stream, in order (20_memory.md R59). -/
def groupsOf : List Byte → List Group
  | b0 :: b1 :: b2 :: rest => ⟨b0, b1, b2⟩ :: groupsOf rest
  | _ => []

/-- The group stores to the cell: its opcode is 30 or 1 and its `arg1` is the cell (42_interpreter_fsm.md R161). -/
def storesTo (c : Nat) (g : Group) : Bool :=
  ((dec g).opcode = 30#6 || (dec g).opcode = 1#6) && (dec g).arg1.toNat = c

/-- What a storing group stores (42_interpreter_fsm.md R161). -/
def storedValue (g : Group) : Int :=
  if (dec g).opcode = 30#6 then (dec g).arg2.toNat + (dec g).arg3.toNat
  else (dec g).arg2.toNat - (dec g).arg3.toNat

/-- The closed form of a cell's final value: what the last group that stores to it stores, 0 where none does
(42_interpreter_fsm.md R161). -/
def lastStored (stream : List Byte) (c : Nat) : Int :=
  match (groupsOf stream).reverse.find? (storesTo c) with
  | some g => storedValue g
  | none => 0

/-- D as the packing formula masks it: `D & 0x7`, 0 when absent (40_encoder.md R111). -/
def maskedD : Option Int → Int
  | none => 0
  | some d => d % 8

/-- D as the stored instruction has it: `D mod 4`, 0 when absent (70_reset_and_hazards.md R238). -/
def storedD : Option Int → Int
  | none => 0
  | some d => d % 4

/-- What the instruction of an assembled line does to a cell: the fields masked, then the dispatch
(70_reset_and_hazards.md R238, 42_interpreter_fsm.md R154). -/
def lineCell (f : FieldSet) (c : Nat) (old : Int) : Int :=
  if f.A % 64 = 30 ∧ f.B % 8 = c then f.C % 8192 + storedD f.D
  else if f.A % 64 = 1 ∧ f.B % 8 = c then f.C % 8192 - storedD f.D
  else old

/-! ## Frames -/

/-- Everything but MEM and `pos` is the same. -/
def sameButMemPos (s t : State) : Prop :=
  t.phase = s.phase ∧ t.rangeStart = s.rangeStart ∧ t.rangeEnd = s.rangeEnd ∧ t.batch = s.batch ∧ t.log = s.log ∧
    t.stream = s.stream ∧ t.requests = s.requests ∧ t.result = s.result

/-- Everything of INT and MEM is the same. -/
def sameInterpreter (s t : State) : Prop :=
  t.mem = s.mem ∧ t.pos = s.pos ∧ t.phase = s.phase ∧ t.rangeStart = s.rangeStart ∧ t.rangeEnd = s.rangeEnd ∧
    t.stream = s.stream ∧ t.result = s.result

/-- Everything of ENC is the same. -/
def sameEncoder (s t : State) : Prop := t.batch = s.batch ∧ t.log = s.log

/-! ## The invariant -/

/-- The pairs `(start, mem[start]), ..., (end - 1, mem[end - 1])` (42_interpreter_fsm.md R150). -/
def slicePairs (m : Memory) (start stop : Nat) : List (Nat × Int) :=
  (List.range' start (stop - start)).map fun a => (a, cellAt m a)

/-- An accepted run, in progress or ended (10_state.md R36 (a) and (d); R24). -/
structure RunInv (s : State) : Prop where
  pos_multiple : s.pos % 3 = 0
  pos_bound : s.pos ≤ 3 * (s.stream.length / 3)
  range_legal : s.rangeStart ≤ s.rangeEnd ∧ s.rangeEnd ≤ 256
  mem_of_stream : s.mem = streamEffect (s.stream.take s.pos) zeroedMemory

/-- The invariant of every state: 10_state.md R36 of an accepted run, R24 of its range, and R119 of ENC's two lists. The
model's choices: the canonical form and the placeholder outside a run (`mem_canonical`, `no_memory`: log entry 1), the
stream held in the state (log entry 3), and what `result` holds in each phase (log entry 5). -/
structure Inv (s : State) : Prop where
  mem_canonical : Memory.wf s.mem
  high_cells_zero : ∀ a, 8 ≤ a → cellAt s.mem a = 0
  cells_bounded : ∀ a, -3 ≤ cellAt s.mem a ∧ cellAt s.mem a ≤ 8194
  accepted : s.phase = .running ∨ s.phase = .done → RunInv s
  ended : s.phase = .done →
    s.pos = 3 * (s.stream.length / 3) ∧ s.result = some (.cells (slicePairs s.mem s.rangeStart s.rangeEnd))
  refused : s.phase = .rejected →
    ¬ (s.rangeStart ≤ s.rangeEnd ∧ s.rangeEnd ≤ 256) ∧ s.result = some (.rangeFault s.rangeStart s.rangeEnd)
  no_memory : s.phase = .idle ∨ s.phase = .rejected → s.mem = zeroedMemory
  no_result_in_run : s.phase = .running → s.result = none
  records : ∀ r ∈ s.batch, r = recordOf r.fields
  log_matches : s.log = s.batch.map fun r => logEntryOf r.fields

/-! ## Phases (10_state.md R25) -/

/-- The phase in which serving a request ends: a launch in RUNNING, or in REJECTED when its range is not legal
(42_interpreter_fsm.md R152), any other request in IDLE (log entries 4 and 8). -/
def requestedPhase (r : Request) : Phase :=
  match r with
  | .run _ start stop => if start ≤ stop ∧ stop ≤ 256 then .running else .rejected
  | .beginAssembly | .encode _ | .takeResult => .idle

/-- The move of the phase in one step: a run goes on while 3 bytes are left and else ends (10_state.md R25,
42_interpreter_fsm.md R154, R156); outside a run the host's oldest request alone decides (log entries 4 and 8). -/
def phaseMoves (s t : State) : Prop :=
  match s.phase with
  | .running => t.phase = if s.pos + 3 ≤ s.stream.length then .running else .done
  | .idle | .done | .rejected => ∃ r rest, s.requests = r :: rest ∧ t.phase = requestedPhase r

/-! ## Runs -/

/-- `k` steps of the machine, stopping at the first that answers no next state. -/
def runSteps (k : Nat) (s : State) : Host.Outcome State Fault Refusal := Host.Core.run core k s

end Sys2Proof.Machine
end

