-- ==== Sys2Proof/Certificates/Slice0/Obligations.lean ====
section
/-! DEFINITION. The statements for the provers. A statement's docstring names the rule or section of spec/ it rests on,
and the log entry where it rests on a choice of the model or a decision of the spec. -/

open Sys2Proof Sys2Proof.Machine

/-! ## Encoding and decoding -/

/-- 41_decoder.md R131, R132: the decoder's word is the three bytes, little-endian, with a zero high byte, and each
field is its bits of the word and of the bytes. -/
def Obligations.DecoderFieldsAreTheWordsBits : Prop :=
  ∀ g : Group,
    let w := (dec g).word32.toNat
    w = g.byte0.toNat + 256 * g.byte1.toNat + 65536 * g.byte2.toNat ∧ w ≤ 16777215 ∧
    (dec g).word32.extractLsb' 0 8 = g.byte0 ∧ (dec g).word32.extractLsb' 8 8 = g.byte1 ∧
    (dec g).word32.extractLsb' 16 8 = g.byte2 ∧ (dec g).word32.extractLsb' 24 8 = 0#8 ∧
    (dec g).opcode.toNat = w % 64 ∧ (dec g).arg1.toNat = w / 64 % 8 ∧
    (dec g).arg2.toNat = w / 512 % 8192 ∧ (dec g).arg3.toNat = w / 4194304 % 8 ∧
    (dec g).opcode.toNat = g.byte0.toNat % 64 ∧
    (dec g).arg1.toNat = 4 * (g.byte1.toNat % 2) + g.byte0.toNat / 64 ∧
    (dec g).arg2.toNat = 128 * (g.byte2.toNat % 64) + g.byte1.toNat / 2 ∧
    (dec g).arg3.toNat = g.byte2.toNat / 64

/-- 95_test_vectors.md section 3: words written out from the encoding decode to the instructions they stand for. -/
def Obligations.KnownWordsDecode : Prop :=
  decode [0x9E#8, 0xC8#8, 0x40#8] = .ok (.addStore ⟨2#3, 100#13, 1#3⟩, []) ∧
  decode [0x41#8, 0x15#8, 0xC0#8] = .ok (.subStore ⟨5#3, 10#13, 3#3⟩, []) ∧
  decode [0x00#8, 0x00#8, 0x00#8] = .ok (.skip0 ⟨0#3, 0#13, 0#3⟩, []) ∧
  decode [0xFF#8, 0xFF#8, 0xFF#8] = .ok (.skip63 ⟨7#3, 8191#13, 3#3⟩, []) ∧
  decode [0x5D#8, 0x15#8, 0xC0#8] = .ok (.skip29 ⟨5#3, 10#13, 3#3⟩, [])

/-- 30_encoding.md section 6, 41_decoder.md section 4: decoding the bytes of a well-formed instruction, whatever follows
them, gives it back with every operand, and leaves what follows. -/
def Obligations.EncodeThenDecodeGivesTheInstruction : Prop :=
  ∀ (i : Instr) (rest : List Byte), i.wf = true → decode (encode i ++ rest) = .ok (i, rest)

/-- 41_decoder.md sections 3 and 4: what bytes decode to is well-formed (`arg3 <= 3`), and encoding it gives the bytes
back. So no bit of a group is dropped and two different groups are different instructions. -/
def Obligations.DecodeThenEncodeGivesTheBytes : Prop :=
  ∀ (bytes rest : List Byte) (i : Instr), decode bytes = .ok (i, rest) →
    i.wf = true ∧ encode i ++ rest = bytes

/-- 30_encoding.md section 4, 41_decoder.md section 3: no encoding is illegal. Only fewer than 3 bytes hold no
instruction. -/
def Obligations.OnlyFragmentsHoldNoInstruction : Prop :=
  ∀ bytes : List Byte, (∃ i rest, decode bytes = .ok (i, rest)) ↔ 3 ≤ bytes.length

/-! ## ENC -/

/-- 40_encoder.md sections 2 and 3: the packed word and the three bytes of any field set, negative fields by the
two's-complement reading (the spec's decision D2), the word result without bit 24 (the spec's decision D11); log
entry 12. -/
def Obligations.EncoderPacksMaskedFields : Prop :=
  ∀ f : FieldSet,
    let a := f.A % 64
    let b := f.B % 8
    let c := f.C % 8192
    let d := maskedD f.D
    ((packFields f).toNat : Int) = a + 64 * b + 512 * c + 4194304 * d ∧
    ((recordOf f).word.toNat : Int) = (a + 64 * b + 512 * c + 4194304 * d) % 16777216 ∧
    ((recordOf f).bytes.byte0.toNat : Int) = a + 64 * (b % 4) ∧
    ((recordOf f).bytes.byte1.toNat : Int) = b / 4 + 2 * (c % 128) ∧
    ((recordOf f).bytes.byte2.toNat : Int) = c / 128 + 64 * (d % 4) ∧
    (recordOf f).fields = f ∧ logEntryOf f = ⟨f, (recordOf f).bytes⟩

/-- 40_encoder.md R114: D absent leaves bits 24:22 of the packed word and the two top bits of `byte2` 0, and differs from `D = 0` only in the D member of
the record and of the log entry. -/
def Obligations.AbsentDEncodesAsZero : Prop :=
  ∀ A B C : Int,
    (packFields ⟨A, B, C, none⟩).toNat < 4194304 ∧
    (recordOf ⟨A, B, C, none⟩).bytes.byte2.toNat / 64 = 0 ∧
    recordOf ⟨A, B, C, none⟩ = { recordOf ⟨A, B, C, some 0⟩ with fields := ⟨A, B, C, none⟩ } ∧
    logEntryOf ⟨A, B, C, none⟩ = { logEntryOf ⟨A, B, C, some 0⟩ with fields := ⟨A, B, C, none⟩ }

/-- 30_encoding.md section 4: two field sets give the same three bytes exactly when they agree modulo the field widths,
D modulo 4, an absent D as 0 (an inference of the spec; negative fields by its decision D2; log entry 12). -/
def Obligations.SameBytesExactlyWhenFieldsAgree : Prop :=
  ∀ f h : FieldSet,
    (recordOf f).bytes = (recordOf h).bytes ↔
      f.A % 64 = h.A % 64 ∧ f.B % 8 = h.B % 8 ∧ f.C % 8192 = h.C % 8192 ∧ storedD f.D = storedD h.D

/-- 41_decoder.md section 4: DEC of ENC's bytes gives the masked fields, and 0 for an absent D (an inference of the
spec; negative fields by its decision D2; log entry 12). -/
def Obligations.DecodingEncodedFieldsGivesMaskedFields : Prop :=
  ∀ f : FieldSet,
    ((dec (recordOf f).bytes).opcode.toNat : Int) = f.A % 64 ∧
    ((dec (recordOf f).bytes).arg1.toNat : Int) = f.B % 8 ∧
    ((dec (recordOf f).bytes).arg2.toNat : Int) = f.C % 8192 ∧
    ((dec (recordOf f).bytes).arg3.toNat : Int) = storedD f.D

/-- 40_encoder.md section 5: outside a run the host's oldest request, when it is an `Encode`, appends one record and one
log entry; INT is as the taking of the last run's answer leaves it, MEM discarded (42_interpreter_fsm.md section 4), and
nothing else changes. The model's choices: the host's oldest request served outside a run and taken off (log entry 4),
and what INT holds in IDLE: the empty memory field, a placeholder (log entry 1), the range 0 (log entry 2), no stream (log
entry 3), the last run's answer kept in `result` (log entry 5), and its taking by this request, with `pos` 0 (log entry
8). D recorded as absent is the spec's decision D10. -/
def Obligations.EncodeRequestAppendsRecordAndLog : Prop :=
  ∀ (s : State) (f : FieldSet) (rest : List Request), s.phase ≠ .running → s.requests = .encode f :: rest →
    ∃ t, step s = .next t ∧
      t.batch = s.batch ++ [⟨f, packedWord (packFields f), packedBytes (packFields f)⟩] ∧
      t.log = s.log ++ [⟨f, packedBytes (packFields f)⟩] ∧
      t.requests = rest ∧ sameInterpreter (discardRun s) t

/-- 40_encoder.md section 6, 70_reset_and_hazards.md section 1: an assembly of k lines, from whatever ENC held before,
leaves one record and one log entry per line in order and a binary output of 3 k bytes, and INT as the taking of the last
run's answer leaves it, MEM discarded (42_interpreter_fsm.md section 4). The model's choices: requests served one a step
and taken off (log entry 4), and what INT holds in IDLE: the empty memory field, a placeholder (log entry 1), the range 0
(log entry 2), no stream (log entry 3), the last run's answer kept in `result` (log entry 5), and its taking by the first
of the requests, with `pos` 0 (log entry 8). The empty start is the spec's decision D12, D recorded as absent its D10. -/
def Obligations.AssemblyGivesOneRecordPerLine : Prop :=
  ∀ (s : State) (lines : List FieldSet) (rest : List Request), s.phase ≠ .running →
    s.requests = .beginAssembly :: (lines.map Request.encode ++ rest) →
    ∃ t, runSteps (lines.length + 1) s = .next t ∧
      t.batch = lines.map recordOf ∧ t.log = lines.map logEntryOf ∧
      binaryOutput t = lines.flatMap (fun f => (packedBytes (packFields f)).toBytes) ∧
      (binaryOutput t).length = 3 * lines.length ∧
      t.requests = rest ∧ sameInterpreter (discardRun s) t

/-! ## Launch -/

/-- 10_state.md section 10: `pos`, the phase, `batch` and `log` have the reset values of the spec. The rest are the
model's choices: MEM has no content in IDLE (10_state.md section 4; R34's 0 is a cell's value after a launch), so the
cells that read 0 are the placeholder of log entry 1; the range, the stream, the requests and the result have no reset
value in the spec (log entries 2 to 5). -/
def Obligations.ResetLeavesZeroedMemoryAndIdle : Prop :=
  (∀ a, a < 256 → memRead State.reset.mem a = some 0) ∧ State.reset.pos = 0 ∧ State.reset.phase = .idle ∧
    State.reset.batch = [] ∧ State.reset.log = [] ∧ State.reset.rangeStart = 0 ∧ State.reset.rangeEnd = 0 ∧
    State.reset.stream = [] ∧ State.reset.requests = [] ∧ State.reset.result = none

/-- 42_interpreter_fsm.md section 2, 70_reset_and_hazards.md section 1: a launch with `start <= end <= 256` starts a run
at offset 0 against zeroed memory, whatever was there before. Which ranges are legal is the spec's decision D5. The
model's choices: the stream held in the state (log entry 3), the host's oldest request served outside a run and taken
off (log entry 4), no result held during a run (log entry 5), the answer of the run before taken by the launch (log entry 8). -/
def Obligations.LegalLaunchStartsAtZeroOnZeroedMemory : Prop :=
  ∀ (s : State) (stream : List Byte) (start stop : Nat) (rest : List Request), s.phase ≠ .running →
    s.requests = .run stream start stop :: rest → start ≤ stop → stop ≤ 256 →
    ∃ t, step s = .next t ∧ t.phase = .running ∧ t.pos = 0 ∧ (∀ a, a < 256 → t.cell? a = some 0) ∧
      t.rangeStart = start ∧ t.rangeEnd = stop ∧ t.stream = stream ∧ t.result = none ∧ t.requests = rest ∧
      sameEncoder s t

/-- 60_exceptions.md section 1, 42_interpreter_fsm.md section 2: a launch with `start > end` or `end > 256` raises
RangeFault with the pair: the phase is REJECTED, there is no memory to read and no instruction runs. The fault is the
spec's decision D5. The model's choices: no value of a cell outside a run (log entry 1), the host's oldest request
served outside a run and taken off (log entry 4), the pair held in the result (log entry 5), the refusal of a further
step with nothing asked for (log entry 7), the answer of the run before taken by the launch (log entry 8). -/
def Obligations.IllegalLaunchRaisesRangeFault : Prop :=
  ∀ (s : State) (stream : List Byte) (start stop : Nat) (rest : List Request), s.phase ≠ .running →
    s.requests = .run stream start stop :: rest → (stop < start ∨ 256 < stop) →
    ∃ t, step s = .next t ∧ t.phase = .rejected ∧ t.result = some (.rangeFault start stop) ∧
      t.rangeStart = start ∧ t.rangeEnd = stop ∧ (∀ a, t.cell? a = none) ∧ t.requests = rest ∧ sameEncoder s t ∧
      (rest = [] → step t = .refused (.rangeFault start stop))

/-- 10_state.md section 4: outside a run, with nothing asked for, no transition is enabled, and each phase says so under
its own name (the names are the model's, log entry 7). -/
def Obligations.NothingHappensUnasked : Prop :=
  ∀ s : State, s.requests = [] →
    (s.phase = .idle → step s = .refused .noRequest) ∧
    (s.phase = .done → step s = .refused .streamExhausted) ∧
    (s.phase = .rejected → step s = .refused (.rangeFault s.rangeStart s.rangeEnd))

/-! ## The step and the instructions -/

/-- 42_interpreter_fsm.md section 3: in RUNNING, when the bytes at `pos` decode to an instruction, the step is that
instruction's meaning at that state, and nothing is added around it (the meaning moves `pos` itself). -/
def Obligations.StepRunsTheDecodedInstruction : Prop :=
  ∀ (s : State) (i : Instr) (rest : List Byte), s.phase = .running →
    decode (s.stream.drop s.pos) = .ok (i, rest) → step s = exec i s

/-- Log entry 6: after `withFetchWord` the next step runs exactly the instruction the decoder reads from that word. -/
def Obligations.PlacedWordRunsNext : Prop :=
  ∀ (s : State) (w : Nat) (i : Instr), decodeTableWord 24 w = some i →
    step (s.withFetchWord 24 w) = exec i (s.withFetchWord 24 w)

/-- 42_interpreter_fsm.md sections 3 and 4: in RUNNING a group is consumed exactly when `N - pos >= 3` (R153); otherwise
the step is the transition that ends the run (R156), a step of its own by log entry 7 (DEDUCED). -/
def Obligations.GroupConsumedExactlyWhenThreeBytesRemain : Prop :=
  ∀ s : State, s.phase = .running →
    (3 ≤ s.stream.length - s.pos ↔ ∃ g, fetch s = some g) ∧
    (3 ≤ s.stream.length - s.pos → ∃ g, fetch s = some g ∧ step s = exec (decodeGroup g) s) ∧
    (s.stream.length - s.pos < 3 → step s = finishRun s)

/-- 42_interpreter_fsm.md R154: the step, whole: fetch, decode, dispatch, advance; no fault; nothing else written; the
value stored is made of the group alone, not of MEM. -/
def Obligations.RunningStepFetchesDispatchesAdvances : Prop :=
  ∀ s : State, s.phase = .running → 3 ≤ s.stream.length - s.pos →
    ∃ b0 b1 b2 t, streamRead s.stream s.pos 3 = some [b0, b1, b2] ∧ step s = .next t ∧
      t.pos = s.pos + 3 ∧ sameButMemPos s t ∧
      let d := dec ⟨b0, b1, b2⟩
      ∀ a, cellAt t.mem a =
        if a = d.arg1.toNat then
          if d.opcode = 30#6 then (d.arg2.toNat : Int) + d.arg3.toNat
          else if d.opcode = 1#6 then (d.arg2.toNat : Int) - d.arg3.toNat
          else cellAt s.mem a
        else cellAt s.mem a

/-- 43_store_arith.md R180: the groups whose low six bits are 30 are the ADD_STOREs. ADD_STORE completes in every state, stores the exact sum in cell `arg1`, advances `pos` by
3, and changes nothing else; the sum of a decoded instruction lies in 0 to 8194. -/
def Obligations.AddStoreStoresTheSum : Prop :=
  (∀ g : Group, groupNat g % 64 = 30 ↔ ∃ a, decodeGroup g = .addStore a) ∧
  ∀ (a : Args) (s : State),
    ∃ t, exec (.addStore a) s = .next t ∧ t.pos = s.pos + 3 ∧ sameButMemPos s t ∧
      (destCell a).val = a.arg1.toNat ∧
      memRead t.mem (destCell a) = some ((a.arg2.toNat : Int) + a.arg3.toNat) ∧
      (∀ c, c ≠ (destCell a).val → memRead t.mem c = memRead s.mem c) ∧
      (a.wf = true → 0 ≤ ((a.arg2.toNat : Int) + a.arg3.toNat) ∧ ((a.arg2.toNat : Int) + a.arg3.toNat) ≤ 8194)

/-- 43_store_arith.md section 2: the groups whose low six bits are 1 are the SUB_STOREs. SUB_STORE completes in every state, stores the exact difference in cell `arg1`
(negative when `arg2 < arg3`, the spec's decision D3; log entry 12), advances `pos` by 3, and changes nothing else; the
difference of a decoded instruction lies in -3 to 8191. -/
def Obligations.SubStoreStoresTheDifference : Prop :=
  (∀ g : Group, groupNat g % 64 = 1 ↔ ∃ a, decodeGroup g = .subStore a) ∧
  ∀ (a : Args) (s : State),
    ∃ t, exec (.subStore a) s = .next t ∧ t.pos = s.pos + 3 ∧ sameButMemPos s t ∧
      (destCell a).val = a.arg1.toNat ∧
      memRead t.mem (destCell a) = some ((a.arg2.toNat : Int) - a.arg3.toNat) ∧
      (∀ c, c ≠ (destCell a).val → memRead t.mem c = memRead s.mem c) ∧
      (a.wf = true → -3 ≤ ((a.arg2.toNat : Int) - a.arg3.toNat) ∧ ((a.arg2.toNat : Int) - a.arg3.toNat) ≤ 8191)

/-- 44_skip.md R190: the opcode of a group is its low six bits; every one of the 62 instructions whose opcode is neither 30 nor 1 (`skip0`, `skip2` to `skip29`,
`skip31` to `skip63`) completes in every state and with every operand: `pos` advances by 3, MEM is unchanged at every
address, and nothing else changes. -/
def Obligations.SkipOnlyAdvances : Prop :=
  (∀ g : Group, (decodeGroup g).opcode.toNat = groupNat g % 64) ∧
  ∀ (i : Instr) (s : State), i.opcode ≠ 30#6 → i.opcode ≠ 1#6 →
    ∃ t, exec i s = .next t ∧ t.pos = s.pos + 3 ∧ t.mem = s.mem ∧
      (∀ c, memRead t.mem c = memRead s.mem c) ∧ sameButMemPos s t

/-- 10_state.md section 2, 60_exceptions.md section 1: every instruction, all 64, completes in every state, never faults,
and advances `pos` by exactly 3. -/
def Obligations.EveryInstructionCompletesAndAdvances : Prop :=
  ∀ (i : Instr) (s : State), ∃ t, exec i s = .next t ∧ t.pos = s.pos + 3

/-- 20_memory.md section 5: no instruction writes a cell from 8 up. -/
def Obligations.NoInstructionWritesHighCells : Prop :=
  ∀ (i : Instr) (s t : State), exec i s = .next t → ∀ c, 8 ≤ c → memRead t.mem c = memRead s.mem c

/-- 20_memory.md section 4, 43_store_arith.md section 4: no instruction reads MEM. From two states that differ only in
MEM it writes the same value to a cell or leaves the cell alone in both, and everything else is the same. -/
def Obligations.NoInstructionReadsMemory : Prop :=
  ∀ (i : Instr) (s : State) (m n : Memory),
    ∃ t u, exec i { s with mem := m } = .next t ∧ exec i { s with mem := n } = .next u ∧
      u = { t with mem := u.mem } ∧
      ∀ c, cellAt t.mem c = cellAt u.mem c ∨ (cellAt t.mem c = cellAt m c ∧ cellAt u.mem c = cellAt n c)

/-- 70_reset_and_hazards.md section 3: of two stores to the same cell, one after the other, the earlier is lost without
trace: MEM is at every address as the later store alone would leave it (an inference of the spec). -/
def Obligations.LaterStoreWins : Prop :=
  ∀ (i j : Instr) (s t u v : State), (i.opcode = 30#6 ∨ i.opcode = 1#6) → (j.opcode = 30#6 ∨ j.opcode = 1#6) →
    i.args.arg1 = j.args.arg1 → exec i s = .next t → exec j t = .next u → exec j s = .next v →
    ∀ c, memRead u.mem c = memRead v.mem c

/-- 20_memory.md sections 4 and 8, 00_scope.md section 5; 10_state.md section 4 for the range, "latched at launch and
constant for the whole run": a step of a run leaves the stream, the range, ENC's batch and log and the host's requests as
they are. That the stream and the requests are fields of the state is the model's choice
(log entries 3 and 4). -/
def Obligations.RunningStepLeavesStreamEncoderAndHost : Prop :=
  ∀ s t : State, s.phase = .running → step s = .next t →
    t.stream = s.stream ∧ t.rangeStart = s.rangeStart ∧ t.rangeEnd = s.rangeEnd ∧ sameEncoder s t ∧
      t.requests = s.requests

/-- 42_interpreter_fsm.md section 4: in RUNNING with fewer than 3 bytes left and a legal range, the step ends the run:
DONE, and the result is the cells of `[start, end)` in ascending order, each with its address; MEM and `pos` stay, and so
do the range (10_state.md section 4), the stream and ENC (20_memory.md sections 4 and 8, 00_scope.md section 5). The
model's choices: the stream and the requests as fields (log entries 3 and 4), the result held in the state (log entry
5), the end as a step of its own (log entry 7), MEM kept in DONE until the result is taken (log entry 8). -/
def Obligations.EndOfStreamReturnsTheSlice : Prop :=
  ∀ s : State, s.phase = .running → s.stream.length - s.pos < 3 → s.rangeStart ≤ s.rangeEnd → s.rangeEnd ≤ 256 →
    ∃ t pairs, step s = .next t ∧ t.phase = .done ∧ t.result = some (.cells pairs) ∧
      pairs.length = s.rangeEnd - s.rangeStart ∧
      (∀ k, k < s.rangeEnd - s.rangeStart →
        ∃ v, memRead s.mem (s.rangeStart + k) = some v ∧ pairs[k]? = some (s.rangeStart + k, v)) ∧
      t.mem = s.mem ∧ t.pos = s.pos ∧ t.stream = s.stream ∧ t.rangeStart = s.rangeStart ∧
      t.rangeEnd = s.rangeEnd ∧ sameEncoder s t ∧ t.requests = s.requests

/-- 42_interpreter_fsm.md section 4: after the result is taken MEM is discarded. Outside a run the host's next request,
whatever it is, takes the answer there is, in DONE the result, in REJECTED the RangeFault: no cell has a value of the run
any more, and unless the request is a launch the phase is IDLE, no cell has a value at all, and what the host got stays.
The taking itself, `takeResult`, does no more, also in IDLE, where there is no answer to take: INT as `discardRun` leaves
it, ENC unchanged. The model's choices: the request taken off a queue (log entry 4), the answer kept in `result` (log
entry 5), the event that takes it, from REJECTED and IDLE too, and `pos` 0 (log entry 8); in IDLE the empty memory field, a
placeholder (log entry 1), the range 0 (log entry 2) and no stream (log entry 3). -/
def Obligations.TakenResultDiscardsMemory : Prop :=
  ∀ (s : State) (r : Request) (rest : List Request), s.phase ≠ .running → s.requests = r :: rest →
    ∃ t, step s = .next t ∧ t.requests = rest ∧ t.phase ≠ .done ∧
      (∀ a, t.cell? a = none ∨ t.cell? a = some 0) ∧
      ((∀ stream start stop, r ≠ .run stream start stop) →
        t.phase = .idle ∧ (∀ a, t.cell? a = none) ∧ t.mem = [] ∧ t.result = s.result) ∧
      (r = .takeResult → sameInterpreter (discardRun s) t ∧ sameEncoder s t)

/-! ## Whole-machine rules -/

/-- 10_state.md section 4, 42_interpreter_fsm.md sections 2 to 4: RUNNING stays while 3 bytes are left and else becomes
DONE; a launch takes IDLE to RUNNING, or to REJECTED when its range is not legal (the spec's decision D5). The rest is the
model's: the end of a run as a step of its own (log entry 7); the request served as the oldest of a queue, and IDLE kept
by one that is no launch (log entry 4); and from DONE and REJECTED, which R25 gives no outgoing transition within a run,
the same moves, through IDLE within the one step (log entry 8). -/
def Obligations.RequestOrStreamDecidesThePhase : Prop :=
  ∀ s t : State, step s = .next t → phaseMoves s t

/-- 10_state.md section 11 speaks of the states of an accepted run. At reset, in IDLE, what the invariant says of MEM
(`mem_canonical`, `no_memory`, and the zero and bounded cells) is the form and the placeholder of log entry 1, a choice
of the model; the other clauses hold there because no run has been launched and nothing has been encoded. -/
def Obligations.ResetMeetsInvariant : Prop := Inv State.reset

/-- 10_state.md section 11: in a run every step keeps `pos` a multiple of 3 within the stream, and MEM the fold of the
consumed groups, zero from cell 8 up and within -3 to 8194; 10_state.md section 4 gives the legal range; ENC's records and
log stay in step (40_encoder.md section 5). The model's choices: the canonical form of MEM and the placeholder, no cell
listed, in IDLE and REJECTED (`mem_canonical`, `no_memory`: log entry 1); the stream held in the state (log entry 3); the
result held from the end of a run or a refused launch to the next launch (`ended`, `refused`, `no_result_in_run`: log
entry 5); the answer of a run taken, and MEM discarded, by the next request (log entry 8). -/
def Obligations.EveryStepKeepsInvariant : Prop :=
  ∀ s t : State, Inv s → step s = .next t → Inv t

/-- 60_exceptions.md section 1: from a state that meets the invariant no step faults; the one fault of the model,
`noSuchCell`, is its own (log entry 9), and the invariant rests on log entries 1 and 5 as EveryStepKeepsInvariant says. -/
def Obligations.NoStepFaultsUnderInvariant : Prop :=
  ∀ s : State, Inv s → ∀ f : Fault, step s ≠ .fault f

/-- 10_state.md section 4 with the invariant: from a state that meets the invariant, a step stops only outside a run
with nothing asked for. That a queued request always gives a next state is the model's choice (log entry 4), and so is
that a step with nothing asked for is refused (log entry 7). -/
def Obligations.OnlyUnaskedStepsStop : Prop :=
  ∀ s : State, Inv s → ((∃ t, step s = .next t) ↔ (s.phase = .running ∨ s.requests ≠ []))

/-- The canonical form of MEM is kept by every step, from any state (log entry 1). -/
def Obligations.EveryStepKeepsMemoryCanonical : Prop :=
  ∀ s t : State, Memory.wf s.mem → step s = .next t → Memory.wf t.mem

/-! ## Whole runs -/

/-- 42_interpreter_fsm.md section 5: an accepted run takes one step for the launch, `floor(N / 3)` steps for its groups,
step k at offset 3 k, and one for its end; it always ends in DONE with the slice of the fold of its groups over zeroed
memory (an inference of the spec). The model's choices: the launch as the service of the oldest request (log entry 4),
the result held in the state (log entry 5), the end as a step of its own (log entry 7), the answer of the run
before taken by the launch, and MEM kept in DONE until the result is taken (log entry 8). -/
def Obligations.AcceptedRunEndsWithTheFoldOfItsGroups : Prop :=
  ∀ (s : State) (stream : List Byte) (start stop : Nat) (rest : List Request), s.phase ≠ .running →
    s.requests = .run stream start stop :: rest → start ≤ stop → stop ≤ 256 →
    (∀ k, k ≤ stream.length / 3 →
      ∃ u, runSteps (k + 1) s = .next u ∧ u.phase = .running ∧ u.pos = 3 * k) ∧
    ∃ t, runSteps (stream.length / 3 + 2) s = .next t ∧ t.phase = .done ∧ t.pos = 3 * (stream.length / 3) ∧
      t.mem = streamEffect stream zeroedMemory ∧
      t.result = some (.cells (slicePairs (streamEffect stream zeroedMemory) start stop)) ∧ t.requests = rest ∧
      sameEncoder s t

/-- 42_interpreter_fsm.md section 5: the closed form. After an accepted run each cell holds what the last group that
stores to it stores, and 0 where none does; cells from 8 up hold 0 (an inference of the spec). The `floor(N / 3) + 2`
steps count the launch, served from the queue (log entry 4), and the end (log entry 7), and MEM is read in DONE (log
entry 8): choices of the model. -/
def Obligations.FinalCellIsTheLastStoreToIt : Prop :=
  ∀ (s t : State) (stream : List Byte) (start stop : Nat) (rest : List Request), s.phase ≠ .running →
    s.requests = .run stream start stop :: rest → start ≤ stop → stop ≤ 256 →
    runSteps (stream.length / 3 + 2) s = .next t →
    ∀ c, c < 256 → t.cell? c = some (lastStored stream c) ∧ (8 ≤ c → t.cell? c = some 0)

/-- 42_interpreter_fsm.md section 4: a run of a stream and a run of it without its trailing fragment give the same result
and the same memory, and a refused launch is refused alike (an inference of the spec). The model's choices: the launch
served from the queue (log entry 4), the result held in the state (log entry 5), the end as a step (log entry 7); that
the two refused launches give one and the same state rests on no stream being held there (log entry 3), and MEM is
compared in DONE (log entry 8). -/
def Obligations.TrailingFragmentHasNoEffect : Prop :=
  ∀ (s s' : State) (stream : List Byte) (start stop : Nat) (rest : List Request), s.phase ≠ .running →
    s.requests = .run stream start stop :: rest →
    s' = { s with requests := .run (stream.take (3 * (stream.length / 3))) start stop :: rest } →
    (start ≤ stop ∧ stop ≤ 256 →
      ∃ t t', runSteps (stream.length / 3 + 2) s = .next t ∧ runSteps (stream.length / 3 + 2) s' = .next t' ∧
        t.phase = .done ∧ t'.phase = .done ∧ t'.result = t.result ∧ t'.mem = t.mem ∧ t'.pos = t.pos) ∧
    (¬ (start ≤ stop ∧ stop ≤ 256) →
      ∃ t, step s = .next t ∧ step s' = .next t ∧ t.phase = .rejected)

/-- 42_interpreter_fsm.md section 5: the same stream and range give the same result from any two states outside a run,
whatever ran, was assembled or is asked for besides. The model's choices: the launch served from the queue (log entry 4),
the result held in the state (log entry 5), the end as a step (log entry 7), MEM compared in DONE (log entry 8). For a
refused launch R152 says only that nothing else happens: that `pos`, the stream and MEM also agree in REJECTED, whatever
went before, is the model's (log entry 8, unsafe for `pos`; log entry 3 for the stream; the placeholder of log entry 1
for MEM). -/
def Obligations.RunResultDoesNotDependOnHistory : Prop :=
  ∀ (s s' : State) (stream : List Byte) (start stop : Nat) (rest rest' : List Request),
    s.phase ≠ .running → s'.phase ≠ .running →
    s.requests = .run stream start stop :: rest → s'.requests = .run stream start stop :: rest' →
    (start ≤ stop ∧ stop ≤ 256 →
      ∃ t t', runSteps (stream.length / 3 + 2) s = .next t ∧ runSteps (stream.length / 3 + 2) s' = .next t' ∧
        t.phase = .done ∧ sameInterpreter t t') ∧
    (¬ (start ≤ stop ∧ stop ≤ 256) →
      ∃ t t', step s = .next t ∧ step s' = .next t' ∧ t.phase = .rejected ∧ sameInterpreter t t')

/-- 70_reset_and_hazards.md section 5: assemble, then interpret the binary output. Every cell of the final memory is the
fold of the lines' instructions, their fields masked and D taken modulo 4, over zero (an inference of the spec; negative
fields by its decision D2, the empty start by D12; log entry 12). The `2 k + 3` steps count k + 1 requests of ENC and the
launch, served from the queue (log entry 4), k groups and the end (log entry 7); the stream is held in the state (log
entry 3) and MEM is read in DONE (log entry 8): choices of the model. -/
def Obligations.AssembledLinesRunAsWritten : Prop :=
  ∀ (s : State) (lines : List FieldSet) (start stop : Nat) (rest : List Request), s.phase ≠ .running →
    s.requests = .beginAssembly :: (lines.map Request.encode ++
      .run (lines.flatMap fun f => (packedBytes (packFields f)).toBytes) start stop :: rest) →
    start ≤ stop → stop ≤ 256 →
    ∃ t, runSteps (2 * lines.length + 3) s = .next t ∧ t.phase = .done ∧ t.pos = 3 * lines.length ∧
      t.stream = binaryOutput t ∧ t.requests = rest ∧
      ∀ c, c < 256 → t.cell? c = some (lines.foldl (fun v f => lineCell f c v) 0)
end

