-- ==== Sys2Proof/Laws/PerInstr.lean ====
section
/-! SUPPORT. The per-instruction family `TableRow`: the opcode map gives each instruction back from its own opcode and
operands, and its opcode is the row's (spec/opcode_table.json; 30_encoding.md R86). -/

namespace Sys2Proof.Laws.TableRow

/-- The opcode map sends the instruction's opcode and operands to the instruction. -/
def Statement (i : Instr) : Prop := Instr.ofFields i.opcode i.args = i

theorem skip0 (a : Args) : Statement (.skip0 a) := rfl

theorem subStore (a : Args) : Statement (.subStore a) := rfl

theorem skip2 (a : Args) : Statement (.skip2 a) := rfl

theorem skip3 (a : Args) : Statement (.skip3 a) := rfl

theorem skip4 (a : Args) : Statement (.skip4 a) := rfl

theorem skip5 (a : Args) : Statement (.skip5 a) := rfl

theorem skip6 (a : Args) : Statement (.skip6 a) := rfl

theorem skip7 (a : Args) : Statement (.skip7 a) := rfl

theorem skip8 (a : Args) : Statement (.skip8 a) := rfl

theorem skip9 (a : Args) : Statement (.skip9 a) := rfl

theorem skip10 (a : Args) : Statement (.skip10 a) := rfl

theorem skip11 (a : Args) : Statement (.skip11 a) := rfl

theorem skip12 (a : Args) : Statement (.skip12 a) := rfl

theorem skip13 (a : Args) : Statement (.skip13 a) := rfl

theorem skip14 (a : Args) : Statement (.skip14 a) := rfl

theorem skip15 (a : Args) : Statement (.skip15 a) := rfl

theorem skip16 (a : Args) : Statement (.skip16 a) := rfl

theorem skip17 (a : Args) : Statement (.skip17 a) := rfl

theorem skip18 (a : Args) : Statement (.skip18 a) := rfl

theorem skip19 (a : Args) : Statement (.skip19 a) := rfl

theorem skip20 (a : Args) : Statement (.skip20 a) := rfl

theorem skip21 (a : Args) : Statement (.skip21 a) := rfl

theorem skip22 (a : Args) : Statement (.skip22 a) := rfl

theorem skip23 (a : Args) : Statement (.skip23 a) := rfl

theorem skip24 (a : Args) : Statement (.skip24 a) := rfl

theorem skip25 (a : Args) : Statement (.skip25 a) := rfl

theorem skip26 (a : Args) : Statement (.skip26 a) := rfl

theorem skip27 (a : Args) : Statement (.skip27 a) := rfl

theorem skip28 (a : Args) : Statement (.skip28 a) := rfl

theorem skip29 (a : Args) : Statement (.skip29 a) := rfl

theorem addStore (a : Args) : Statement (.addStore a) := rfl

theorem skip31 (a : Args) : Statement (.skip31 a) := rfl

theorem skip32 (a : Args) : Statement (.skip32 a) := rfl

theorem skip33 (a : Args) : Statement (.skip33 a) := rfl

theorem skip34 (a : Args) : Statement (.skip34 a) := rfl

theorem skip35 (a : Args) : Statement (.skip35 a) := rfl

theorem skip36 (a : Args) : Statement (.skip36 a) := rfl

theorem skip37 (a : Args) : Statement (.skip37 a) := rfl

theorem skip38 (a : Args) : Statement (.skip38 a) := rfl

theorem skip39 (a : Args) : Statement (.skip39 a) := rfl

theorem skip40 (a : Args) : Statement (.skip40 a) := rfl

theorem skip41 (a : Args) : Statement (.skip41 a) := rfl

theorem skip42 (a : Args) : Statement (.skip42 a) := rfl

theorem skip43 (a : Args) : Statement (.skip43 a) := rfl

theorem skip44 (a : Args) : Statement (.skip44 a) := rfl

theorem skip45 (a : Args) : Statement (.skip45 a) := rfl

theorem skip46 (a : Args) : Statement (.skip46 a) := rfl

theorem skip47 (a : Args) : Statement (.skip47 a) := rfl

theorem skip48 (a : Args) : Statement (.skip48 a) := rfl

theorem skip49 (a : Args) : Statement (.skip49 a) := rfl

theorem skip50 (a : Args) : Statement (.skip50 a) := rfl

theorem skip51 (a : Args) : Statement (.skip51 a) := rfl

theorem skip52 (a : Args) : Statement (.skip52 a) := rfl

theorem skip53 (a : Args) : Statement (.skip53 a) := rfl

theorem skip54 (a : Args) : Statement (.skip54 a) := rfl

theorem skip55 (a : Args) : Statement (.skip55 a) := rfl

theorem skip56 (a : Args) : Statement (.skip56 a) := rfl

theorem skip57 (a : Args) : Statement (.skip57 a) := rfl

theorem skip58 (a : Args) : Statement (.skip58 a) := rfl

theorem skip59 (a : Args) : Statement (.skip59 a) := rfl

theorem skip60 (a : Args) : Statement (.skip60 a) := rfl

theorem skip61 (a : Args) : Statement (.skip61 a) := rfl

theorem skip62 (a : Args) : Statement (.skip62 a) := rfl

theorem skip63 (a : Args) : Statement (.skip63 a) := rfl

end Sys2Proof.Laws.TableRow
end

