-- ==== Sys2Proof/Laws/Decode.lean ====
section
/-! SUPPORT. Laws of DEC and of the encoding functions: every field and every byte as arithmetic on numbers
(41_decoder.md R131, R132; 40_encoder.md R111 to R113), and the opcode map both ways (30_encoding.md R86). -/

namespace Sys2Proof

/-! ## The opcode map -/

theorem ofFields_opcode_args (i : Instr) : Instr.ofFields i.opcode i.args = i := by cases i <;> rfl

theorem ofFields_fields (op : BitVec 6) (a : Args) :
    (Instr.ofFields op a).opcode = op ∧ (Instr.ofFields op a).args = a := by
  obtain ⟨⟨n, h⟩⟩ := op
  interval_cases n <;> exact ⟨rfl, rfl⟩

@[simp] theorem ofFields_opcode (op : BitVec 6) (a : Args) : (Instr.ofFields op a).opcode = op :=
  (ofFields_fields op a).1

@[simp] theorem ofFields_args (op : BitVec 6) (a : Args) : (Instr.ofFields op a).args = a := (ofFields_fields op a).2

/-- Two instructions with the same opcode and operands are the same. -/
theorem Instr.ext_fields {i j : Instr} (ho : i.opcode = j.opcode) (ha : i.args = j.args) : i = j := by
  rw [← ofFields_opcode_args i, ← ofFields_opcode_args j, ho, ha]

/-! ## DEC as arithmetic -/

theorem groupWord32_toNat (g : Group) :
    (groupWord32 g).toNat = g.byte0.toNat + 256 * g.byte1.toNat + 65536 * g.byte2.toNat := by
  have h0 := g.byte0.isLt
  have h1 := g.byte1.isLt
  simp only [groupWord32, BitVec.toNat_append, BitVec.toNat_ofNat, Nat.zero_mod, Nat.zero_shiftLeft, Nat.zero_or]
  rw [← Nat.shiftLeft_add_eq_or_of_lt h1, ← Nat.shiftLeft_add_eq_or_of_lt h0]
  simp only [Nat.shiftLeft_eq]
  omega

theorem groupWord32_lt (g : Group) : (groupWord32 g).toNat < 16777216 := by
  rw [groupWord32_toNat]; have := g.byte0.isLt; have := g.byte1.isLt; have := g.byte2.isLt; omega

theorem dec_opcode_toNat (g : Group) : (dec g).opcode.toNat = (groupWord32 g).toNat % 64 := by
  simp [dec, BitVec.extractLsb'_toNat]

theorem dec_arg1_toNat (g : Group) : (dec g).arg1.toNat = (groupWord32 g).toNat / 64 % 8 := by
  simp [dec, BitVec.extractLsb'_toNat, Nat.shiftRight_eq_div_pow, Config.arg1Offset]

theorem dec_arg2_toNat (g : Group) : (dec g).arg2.toNat = (groupWord32 g).toNat / 512 % 8192 := by
  simp [dec, BitVec.extractLsb'_toNat, Nat.shiftRight_eq_div_pow, Config.arg2Offset]

theorem dec_arg3_toNat (g : Group) : (dec g).arg3.toNat = (groupWord32 g).toNat / 4194304 % 8 := by
  simp [dec, BitVec.extractLsb'_toNat, Nat.shiftRight_eq_div_pow, Config.arg3Offset]

@[simp] theorem decodeGroup_opcode (g : Group) : (decodeGroup g).opcode = (dec g).opcode := ofFields_opcode _ _

@[simp] theorem decodeGroup_args (g : Group) : (decodeGroup g).args = (dec g).args := ofFields_args _ _

@[simp] theorem decode_toBytes_append (g : Group) (rest : List Byte) :
    decode (g.toBytes ++ rest) = .ok (decodeGroup g, rest) := rfl

/-! ## Packing as arithmetic -/

theorem pack_toNat (a : BitVec 6) (b : BitVec 3) (c : BitVec 13) (d : BitVec 3) :
    (pack a b c d).toNat = a.toNat + 64 * b.toNat + 512 * c.toNat + 4194304 * d.toNat := by
  have ha := a.isLt
  have hb := b.isLt
  have hc := c.isLt
  have hd := d.isLt
  have e : ∀ (x k : Nat), x * 2 ^ k < 2 ^ 25 → (x <<< k) % 2 ^ 25 = x <<< k := fun x k h =>
    Nat.mod_eq_of_lt (by rwa [Nat.shiftLeft_eq])
  simp only [pack, Config.opcodeOffset, Config.arg1Offset, Config.arg2Offset, Config.arg3Offset, BitVec.toNat_or, BitVec.toNat_shiftLeft, BitVec.toNat_setWidth]
  rw [Nat.mod_eq_of_lt (a := a.toNat) (by omega), Nat.mod_eq_of_lt (a := b.toNat) (by omega),
    Nat.mod_eq_of_lt (a := c.toNat) (by omega), Nat.mod_eq_of_lt (a := d.toNat) (by omega),
    e _ _ (by omega), e _ _ (by omega), e _ _ (by omega), e _ _ (by omega)]
  have h1 : a.toNat <<< 0 ||| b.toNat <<< 6 = b.toNat <<< 6 + a.toNat := by
    rw [Nat.shiftLeft_zero, Nat.or_comm, ← Nat.shiftLeft_add_eq_or_of_lt (by omega)]
  have h2 : (b.toNat <<< 6 + a.toNat) ||| c.toNat <<< 9 = c.toNat <<< 9 + (b.toNat <<< 6 + a.toNat) := by
    rw [Nat.or_comm, ← Nat.shiftLeft_add_eq_or_of_lt (by rw [Nat.shiftLeft_eq]; omega)]
  have h3 : (c.toNat <<< 9 + (b.toNat <<< 6 + a.toNat)) ||| d.toNat <<< 22 =
      d.toNat <<< 22 + (c.toNat <<< 9 + (b.toNat <<< 6 + a.toNat)) := by
    rw [Nat.or_comm, ← Nat.shiftLeft_add_eq_or_of_lt (by simp only [Nat.shiftLeft_eq]; omega)]
  rw [h1, h2, h3]
  simp only [Nat.shiftLeft_eq]
  omega

theorem packedWord_toNat (w : Word25) : (packedWord w).toNat = w.toNat % 16777216 := by
  simp [packedWord, BitVec.toNat_setWidth]

theorem packedBytes_byte0_toNat (w : Word25) : (packedBytes w).byte0.toNat = w.toNat % 256 := by
  simp [packedBytes, BitVec.extractLsb'_toNat]

theorem packedBytes_byte1_toNat (w : Word25) : (packedBytes w).byte1.toNat = w.toNat / 256 % 256 := by
  simp [packedBytes, BitVec.extractLsb'_toNat, Nat.shiftRight_eq_div_pow]

theorem packedBytes_byte2_toNat (w : Word25) : (packedBytes w).byte2.toNat = w.toNat / 65536 % 256 := by
  simp [packedBytes, BitVec.extractLsb'_toNat, Nat.shiftRight_eq_div_pow]

/-- The decoder's word of the encoder's bytes: bit 24 is lost (30_encoding.md R84). -/
theorem groupWord32_packedBytes (w : Word25) : (groupWord32 (packedBytes w)).toNat = w.toNat % 16777216 := by
  rw [groupWord32_toNat, packedBytes_byte0_toNat, packedBytes_byte1_toNat, packedBytes_byte2_toNat]
  omega

theorem maskTo_toNat (w : Nat) (x : Int) : ((maskTo w x).toNat : Int) = x % (2 ^ w : Nat) := by
  rw [maskTo, BitVec.toNat_ofInt, Int.toNat_of_nonneg]
  exact Int.emod_nonneg _ (by positivity)

end Sys2Proof
end

