-- ==== Sys2Proof/Laws/Memory.lean ====
section
/-! SUPPORT. Laws of MEM: a read after a write, other cells unchanged, the canonical form kept, equal cells mean equal
memories (20_memory.md R54, R55). -/

namespace Sys2Proof.Machine

@[simp] theorem cellAt_nil (a : Nat) : cellAt [] a = 0 := rfl

theorem cellAt_cons (e : Nat × Int) (m : Memory) (a : Nat) :
    cellAt (e :: m) a = if a = e.1 then e.2 else cellAt m a := by
  obtain ⟨k, v⟩ := e
  by_cases h : a = k
  · simp [cellAt, h]
  · simp [cellAt, List.lookup_cons, h, beq_eq_false_iff_ne.mpr h]

theorem memRead_of_lt (m : Memory) {a : Nat} (h : a < 256) : memRead m a = some (cellAt m a) := by
  simp [memRead, h]

theorem memRead_of_ge (m : Memory) {a : Nat} (h : 256 ≤ a) : memRead m a = none := by
  simp [memRead, Nat.not_lt.mpr h]

theorem cellAt_eraseCell (m : Memory) (a b : Nat) :
    cellAt (eraseCell a m) b = if b = a then 0 else cellAt m b := by
  induction m with
  | nil => simp [eraseCell]
  | cons e m ih =>
    rw [eraseCell] at ih ⊢
    by_cases h : e.1 = a
    · rw [List.filter_cons_of_neg (by simp [h]), ih, cellAt_cons, h]
      split <;> rfl
    · rw [List.filter_cons_of_pos (by simp [h]), cellAt_cons, cellAt_cons, ih]
      by_cases hb : b = a
      · simp [hb, Ne.symm h]
      · simp [hb]

theorem cellAt_insertCell (m : Memory) (a : Nat) (v : Int) (h : cellAt m a = 0) (hm : ∀ e ∈ m, e.1 ≠ a) (b : Nat) :
    cellAt (insertCell a v m) b = if b = a then v else cellAt m b := by
  induction m with
  | nil => simp [insertCell, cellAt_cons]
  | cons e m ih =>
    have he : e.1 ≠ a := hm e (by simp)
    rw [insertCell]
    split
    · rw [cellAt_cons]
    · rw [cellAt_cons, ih (by rwa [cellAt_cons, if_neg he.symm] at h) (fun x hx => hm x (by simp [hx])), cellAt_cons]
      by_cases hb : b = a
      · simp [hb, he.symm]
      · simp [hb]

/-- A write gives its cell the value and leaves every other cell as it was (20_memory.md R54). -/
theorem cellAt_memWrite (m : Memory) (c : CellIndex) (v : Int) (b : Nat) :
    cellAt (memWrite m c v) b = if b = c then v else cellAt m b := by
  rw [memWrite]
  split
  · next h => rw [cellAt_eraseCell]; split <;> simp [h]
  · rw [cellAt_insertCell _ _ _ (by simp [cellAt_eraseCell]) (by simp [eraseCell]), cellAt_eraseCell]
    split <;> rfl

theorem Memory.wf_nil : Memory.wf [] := by simp [Memory.wf]

/-- The memory after reset is in the canonical form. -/
theorem reset_mem_wf : Memory.wf State.reset.mem := Memory.wf_nil

theorem eraseCell_wf {m : Memory} (h : Memory.wf m) (a : Nat) : Memory.wf (eraseCell a m) :=
  ⟨h.1.sublist (List.filter_sublist.map Prod.fst), fun e he => h.2 e (List.mem_filter.mp he).1⟩

theorem mem_insertCell {m : Memory} {a : Nat} {v : Int} {e : Nat × Int} :
    e ∈ insertCell a v m ↔ e = (a, v) ∨ e ∈ m := by
  induction m with
  | nil => simp [insertCell]
  | cons x m ih =>
    rw [insertCell]
    split
    · simp
    · rw [List.mem_cons, ih, List.mem_cons]; tauto

theorem insertCell_wf {m : Memory} (h : Memory.wf m) {a : Nat} {v : Int} (ha : a < 256) (hv : v ≠ 0)
    (hm : ∀ e ∈ m, e.1 ≠ a) : Memory.wf (insertCell a v m) := by
  refine ⟨?_, fun e he => ?_⟩
  · have hs := h.1
    clear h
    induction m with
    | nil => simp [insertCell]
    | cons x m ih =>
      rw [List.map_cons, List.pairwise_cons] at hs
      have hx : x.1 ≠ a := hm x (by simp)
      rw [insertCell]
      split
      · next hlt =>
        simp only [List.map_cons, List.pairwise_cons, List.mem_cons]
        refine ⟨?_, hs⟩
        rintro b (rfl | hb)
        · exact hlt
        · exact lt_trans hlt (hs.1 b hb)
      · next hge =>
        rw [List.map_cons, List.pairwise_cons]
        refine ⟨fun b hb => ?_, ih (fun e he => hm e (by simp [he])) hs.2⟩
        obtain ⟨e, he, rfl⟩ := List.mem_map.mp hb
        rcases mem_insertCell.mp he with rfl | he
        · exact lt_of_le_of_ne (Nat.not_lt.mp hge) hx
        · exact hs.1 _ (List.mem_map_of_mem he)
  · rcases mem_insertCell.mp he with rfl | he
    · exact ⟨ha, hv⟩
    · exact h.2 e he

/-- Every write keeps the canonical form. -/
theorem memWrite_wf {m : Memory} (h : Memory.wf m) (c : CellIndex) (v : Int) : Memory.wf (memWrite m c v) := by
  rw [memWrite]
  split
  · exact eraseCell_wf h _
  · next hv => exact insertCell_wf (eraseCell_wf h _) c.isLt hv (by simp [eraseCell])

theorem cellAt_of_lt_head {e : Nat × Int} {m : Memory} (h : Memory.wf (e :: m)) {a : Nat} (ha : a < e.1) :
    cellAt (e :: m) a = 0 := by
  obtain ⟨hs, hz⟩ := h
  induction m generalizing e with
  | nil => simp [cellAt_cons, Nat.ne_of_lt ha]
  | cons x m ih =>
    simp only [List.map_cons, List.pairwise_cons, List.mem_cons] at hs
    have hx : e.1 < x.1 := hs.1 _ (by simp)
    rw [cellAt_cons, if_neg (Nat.ne_of_lt ha)]
    exact ih (by omega) (by simpa using hs.2) (fun y hy => hz y (by simp [List.mem_cons.mp hy]))

/-- In the canonical form, memories with equal cells are equal data. -/
theorem Memory.ext_of_wf {m n : Memory} (hm : Memory.wf m) (hn : Memory.wf n) (h : ∀ a, cellAt m a = cellAt n a) :
    m = n := by
  have tail : ∀ {e : Nat × Int} {l : Memory}, Memory.wf (e :: l) → Memory.wf l := fun w =>
    ⟨(List.pairwise_cons.mp w.1).2, fun x hx => w.2 x (by simp [hx])⟩
  induction m generalizing n with
  | nil =>
    cases n with
    | nil => rfl
    | cons y n =>
      have := h y.1
      rw [cellAt_nil, cellAt_cons, if_pos rfl] at this
      exact absurd this.symm (hn.2 y (by simp)).2
  | cons x m ih =>
    cases n with
    | nil =>
      have := h x.1
      rw [cellAt_nil, cellAt_cons, if_pos rfl] at this
      exact absurd this (hm.2 x (by simp)).2
    | cons y n =>
      have hx := h x.1
      have hy := h y.1
      rw [cellAt_cons, if_pos rfl] at hx
      rw [cellAt_cons (e := y), if_pos rfl] at hy
      have hxy : x.1 = y.1 := by
        rcases lt_trichotomy x.1 y.1 with hlt | heq | hgt
        · rw [cellAt_of_lt_head hn hlt] at hx
          exact absurd hx (hm.2 x (by simp)).2
        · exact heq
        · rw [cellAt_of_lt_head hm hgt] at hy
          exact absurd hy.symm (hn.2 y (by simp)).2
      have hv : x.2 = y.2 := by rw [hx, cellAt_cons, if_pos hxy]
      obtain rfl : x = y := Prod.ext hxy hv
      rw [ih (tail hm) (tail hn)]
      intro a
      have ha := h a
      rw [cellAt_cons, cellAt_cons] at ha
      split at ha
      · next hax =>
        have zero : ∀ {l : Memory}, Memory.wf (x :: l) → cellAt l a = 0 := by
          intro l w
          cases l with
          | nil => rfl
          | cons z l =>
            refine cellAt_of_lt_head (tail w) ?_
            rw [hax]
            exact (List.pairwise_cons.mp w.1).1 z.1 (by simp)
        rw [zero hm, zero hn]
      · exact ha

/-- The result slice succeeds when every cell asked for exists, and gives the cells in ascending order
(42_interpreter_fsm.md R158). -/
theorem sliceFrom_eq (m : Memory) (a n : Nat) (h : a + n ≤ 256) :
    sliceFrom m a n = .ok ((List.range' a n).map fun b => (b, cellAt m b)) := by
  induction n generalizing a with
  | zero => rfl
  | succ n ih =>
    rw [sliceFrom, memRead_of_lt m (by omega)]
    simp only [ih (a + 1) (by omega), List.range'_succ, List.map_cons]

end Sys2Proof.Machine
end

