-- ==== Sys2Proof/Laws/State.lean ====
section
/-! SUPPORT. What each state update does to each field of the state, by rfl. -/

namespace Sys2Proof.Machine

@[simp] theorem storeCell_mem (c : CellIndex) (v : Int) (s : State) : (storeCell c v s).mem = memWrite s.mem c v := rfl
@[simp] theorem storeCell_pos (c : CellIndex) (v : Int) (s : State) : (storeCell c v s).pos = s.pos := rfl
@[simp] theorem storeCell_phase (c : CellIndex) (v : Int) (s : State) : (storeCell c v s).phase = s.phase := rfl
@[simp] theorem storeCell_rangeStart (c : CellIndex) (v : Int) (s : State) : (storeCell c v s).rangeStart = s.rangeStart := rfl
@[simp] theorem storeCell_rangeEnd (c : CellIndex) (v : Int) (s : State) : (storeCell c v s).rangeEnd = s.rangeEnd := rfl
@[simp] theorem storeCell_batch (c : CellIndex) (v : Int) (s : State) : (storeCell c v s).batch = s.batch := rfl
@[simp] theorem storeCell_log (c : CellIndex) (v : Int) (s : State) : (storeCell c v s).log = s.log := rfl
@[simp] theorem storeCell_stream (c : CellIndex) (v : Int) (s : State) : (storeCell c v s).stream = s.stream := rfl
@[simp] theorem storeCell_requests (c : CellIndex) (v : Int) (s : State) : (storeCell c v s).requests = s.requests := rfl
@[simp] theorem storeCell_result (c : CellIndex) (v : Int) (s : State) : (storeCell c v s).result = s.result := rfl

@[simp] theorem advance_mem (s : State) : (advance s).mem = s.mem := rfl
@[simp] theorem advance_pos (s : State) : (advance s).pos = s.pos + 3 := rfl
@[simp] theorem advance_phase (s : State) : (advance s).phase = s.phase := rfl
@[simp] theorem advance_rangeStart (s : State) : (advance s).rangeStart = s.rangeStart := rfl
@[simp] theorem advance_rangeEnd (s : State) : (advance s).rangeEnd = s.rangeEnd := rfl
@[simp] theorem advance_batch (s : State) : (advance s).batch = s.batch := rfl
@[simp] theorem advance_log (s : State) : (advance s).log = s.log := rfl
@[simp] theorem advance_stream (s : State) : (advance s).stream = s.stream := rfl
@[simp] theorem advance_requests (s : State) : (advance s).requests = s.requests := rfl
@[simp] theorem advance_result (s : State) : (advance s).result = s.result := rfl

@[simp] theorem raiseRangeFault_mem (x y : Nat) (s : State) : (raiseRangeFault x y s).mem = s.mem := rfl
@[simp] theorem raiseRangeFault_pos (x y : Nat) (s : State) : (raiseRangeFault x y s).pos = s.pos := rfl
@[simp] theorem raiseRangeFault_phase (x y : Nat) (s : State) : (raiseRangeFault x y s).phase = .rejected := rfl
@[simp] theorem raiseRangeFault_rangeStart (x y : Nat) (s : State) : (raiseRangeFault x y s).rangeStart = s.rangeStart := rfl
@[simp] theorem raiseRangeFault_rangeEnd (x y : Nat) (s : State) : (raiseRangeFault x y s).rangeEnd = s.rangeEnd := rfl
@[simp] theorem raiseRangeFault_batch (x y : Nat) (s : State) : (raiseRangeFault x y s).batch = s.batch := rfl
@[simp] theorem raiseRangeFault_log (x y : Nat) (s : State) : (raiseRangeFault x y s).log = s.log := rfl
@[simp] theorem raiseRangeFault_stream (x y : Nat) (s : State) : (raiseRangeFault x y s).stream = s.stream := rfl
@[simp] theorem raiseRangeFault_requests (x y : Nat) (s : State) : (raiseRangeFault x y s).requests = s.requests := rfl
@[simp] theorem raiseRangeFault_result (x y : Nat) (s : State) : (raiseRangeFault x y s).result = some (.rangeFault x y) := rfl

@[simp] theorem placeNextGroup_mem (g : Group) (s : State) : (placeNextGroup g s).mem = s.mem := rfl
@[simp] theorem placeNextGroup_pos (g : Group) (s : State) : (placeNextGroup g s).pos = s.pos := rfl
@[simp] theorem placeNextGroup_phase (g : Group) (s : State) : (placeNextGroup g s).phase = .running := rfl
@[simp] theorem placeNextGroup_rangeStart (g : Group) (s : State) : (placeNextGroup g s).rangeStart = s.rangeStart := rfl
@[simp] theorem placeNextGroup_rangeEnd (g : Group) (s : State) : (placeNextGroup g s).rangeEnd = s.rangeEnd := rfl
@[simp] theorem placeNextGroup_batch (g : Group) (s : State) : (placeNextGroup g s).batch = s.batch := rfl
@[simp] theorem placeNextGroup_log (g : Group) (s : State) : (placeNextGroup g s).log = s.log := rfl
@[simp] theorem placeNextGroup_stream (g : Group) (s : State) : (placeNextGroup g s).stream = placeAt s.stream s.pos g := rfl
@[simp] theorem placeNextGroup_requests (g : Group) (s : State) : (placeNextGroup g s).requests = s.requests := rfl
@[simp] theorem placeNextGroup_result (g : Group) (s : State) : (placeNextGroup g s).result = s.result := rfl

@[simp] theorem discardRun_mem (s : State) : (discardRun s).mem = zeroedMemory := rfl
@[simp] theorem discardRun_pos (s : State) : (discardRun s).pos = 0 := rfl
@[simp] theorem discardRun_phase (s : State) : (discardRun s).phase = .idle := rfl
@[simp] theorem discardRun_rangeStart (s : State) : (discardRun s).rangeStart = 0 := rfl
@[simp] theorem discardRun_rangeEnd (s : State) : (discardRun s).rangeEnd = 0 := rfl
@[simp] theorem discardRun_batch (s : State) : (discardRun s).batch = s.batch := rfl
@[simp] theorem discardRun_log (s : State) : (discardRun s).log = s.log := rfl
@[simp] theorem discardRun_stream (s : State) : (discardRun s).stream = [] := rfl
@[simp] theorem discardRun_requests (s : State) : (discardRun s).requests = s.requests := rfl
@[simp] theorem discardRun_result (s : State) : (discardRun s).result = s.result := rfl

@[simp] theorem freshRun_mem (s : State) : (freshRun s).mem = zeroedMemory := rfl
@[simp] theorem freshRun_pos (s : State) : (freshRun s).pos = 0 := rfl
@[simp] theorem freshRun_phase (s : State) : (freshRun s).phase = .idle := rfl
@[simp] theorem freshRun_rangeStart (s : State) : (freshRun s).rangeStart = 0 := rfl
@[simp] theorem freshRun_rangeEnd (s : State) : (freshRun s).rangeEnd = 0 := rfl
@[simp] theorem freshRun_batch (s : State) : (freshRun s).batch = s.batch := rfl
@[simp] theorem freshRun_log (s : State) : (freshRun s).log = s.log := rfl
@[simp] theorem freshRun_stream (s : State) : (freshRun s).stream = [] := rfl
@[simp] theorem freshRun_requests (s : State) : (freshRun s).requests = s.requests := rfl
@[simp] theorem freshRun_result (s : State) : (freshRun s).result = none := rfl

@[simp] theorem encodeCall_mem (f : FieldSet) (s : State) : (encodeCall f s).mem = s.mem := rfl
@[simp] theorem encodeCall_pos (f : FieldSet) (s : State) : (encodeCall f s).pos = s.pos := rfl
@[simp] theorem encodeCall_phase (f : FieldSet) (s : State) : (encodeCall f s).phase = s.phase := rfl
@[simp] theorem encodeCall_rangeStart (f : FieldSet) (s : State) : (encodeCall f s).rangeStart = s.rangeStart := rfl
@[simp] theorem encodeCall_rangeEnd (f : FieldSet) (s : State) : (encodeCall f s).rangeEnd = s.rangeEnd := rfl
@[simp] theorem encodeCall_batch (f : FieldSet) (s : State) : (encodeCall f s).batch = s.batch ++ [recordOf f] := rfl
@[simp] theorem encodeCall_log (f : FieldSet) (s : State) : (encodeCall f s).log = s.log ++ [logEntryOf f] := rfl
@[simp] theorem encodeCall_stream (f : FieldSet) (s : State) : (encodeCall f s).stream = s.stream := rfl
@[simp] theorem encodeCall_requests (f : FieldSet) (s : State) : (encodeCall f s).requests = s.requests := rfl
@[simp] theorem encodeCall_result (f : FieldSet) (s : State) : (encodeCall f s).result = s.result := rfl

@[simp] theorem resetEncoder_mem (s : State) : (resetEncoder s).mem = s.mem := rfl
@[simp] theorem resetEncoder_pos (s : State) : (resetEncoder s).pos = s.pos := rfl
@[simp] theorem resetEncoder_phase (s : State) : (resetEncoder s).phase = s.phase := rfl
@[simp] theorem resetEncoder_rangeStart (s : State) : (resetEncoder s).rangeStart = s.rangeStart := rfl
@[simp] theorem resetEncoder_rangeEnd (s : State) : (resetEncoder s).rangeEnd = s.rangeEnd := rfl
@[simp] theorem resetEncoder_batch (s : State) : (resetEncoder s).batch = [] := rfl
@[simp] theorem resetEncoder_log (s : State) : (resetEncoder s).log = [] := rfl
@[simp] theorem resetEncoder_stream (s : State) : (resetEncoder s).stream = s.stream := rfl
@[simp] theorem resetEncoder_requests (s : State) : (resetEncoder s).requests = s.requests := rfl
@[simp] theorem resetEncoder_result (s : State) : (resetEncoder s).result = s.result := rfl

end Sys2Proof.Machine
end

