-- ==== Sys2Proof/Laws/Exec.lean ====
section
/-! SUPPORT. What an instruction, a fetch, a launch, the end of a run and a step can do, said once each. -/

namespace Sys2Proof.Machine

/-! ## Instructions -/

/-- All an instruction can do when it answers a next state: a sum or a difference stored, or nothing, and the advance. -/
theorem exec_next_cases {i : Instr} {s t : State} (h : exec i s = .next t) :
    (∃ a, i = .addStore a ∧ t = advance (storeCell (destCell a) (sumOf a) s)) ∨
    (∃ a, i = .subStore a ∧ t = advance (storeCell (destCell a) (differenceOf a) s)) ∨
    (i.opcode ≠ 30#6 ∧ i.opcode ≠ 1#6 ∧ t = advance s) := by
  cases i <;>
    first
    | exact .inl ⟨_, rfl, (Host.Outcome.next.inj h).symm⟩
    | exact .inr (.inl ⟨_, rfl, (Host.Outcome.next.inj h).symm⟩)
    | exact .inr (.inr ⟨by simp [Instr.opcode], by simp [Instr.opcode], (Host.Outcome.next.inj h).symm⟩)

/-! ## The stream -/

theorem streamRead_eq_some {stream bs : List Byte} {off n : Nat} (h : streamRead stream off n = some bs) :
    off + n ≤ stream.length ∧ bs = (stream.drop off).take n := by
  rw [streamRead] at h
  split at h
  · next hle => exact ⟨hle, (Option.some.inj h).symm⟩
  · cases h

/-- A group is fetched exactly when its three bytes stand at `pos`. -/
theorem fetch_eq_some_iff {s : State} {g : Group} :
    fetch s = some g ↔ ∃ rest, s.stream.drop s.pos = g.byte0 :: g.byte1 :: g.byte2 :: rest := by
  constructor
  · intro h
    rw [fetch] at h
    split at h
    · next b0 b1 b2 hr =>
      obtain ⟨hle, hb⟩ := streamRead_eq_some hr
      obtain rfl := Option.some.inj h
      refine ⟨(s.stream.drop s.pos).drop 3, ?_⟩
      conv_lhs => rw [← List.take_append_drop 3 (s.stream.drop s.pos)]
      rw [← hb]
      rfl
    · cases h
  · rintro ⟨rest, hd⟩
    have hl : s.pos + 3 ≤ s.stream.length := by
      have := congrArg List.length hd
      simp only [List.length_drop, List.length_cons] at this
      omega
    simp only [fetch, streamRead, Config.instrBytes, hl, if_true, hd]
    rfl

/-- No group is fetched exactly when fewer than 3 bytes remain (42_interpreter_fsm.md R153). -/
theorem fetch_eq_none_iff {s : State} : fetch s = none ↔ s.stream.length < s.pos + 3 := by
  constructor
  · intro h
    by_contra hlt
    match hd : s.stream.drop s.pos with
    | b0 :: b1 :: b2 :: rest =>
      rw [fetch_eq_some_iff (g := ⟨b0, b1, b2⟩) |>.mpr ⟨rest, hd⟩] at h
      cases h
    | [] | [_] | [_, _] =>
      have := congrArg List.length hd
      simp only [List.length_drop, List.length_cons, List.length_nil] at this
      omega
  · intro hlt
    cases hf : fetch s with
    | none => rfl
    | some g =>
      obtain ⟨rest, hd⟩ := fetch_eq_some_iff.mp hf
      have := congrArg List.length hd
      simp only [List.length_drop, List.length_cons] at this
      omega

/-! ## Launch and end of a run -/

theorem legalRange_iff {a b : Nat} : legalRange a b = true ↔ a ≤ b ∧ b ≤ 256 := by
  simp [legalRange, Config.memCells]

theorem launch_of_legal {stream : List Byte} {a b : Nat} (h : a ≤ b ∧ b ≤ 256) (s : State) :
    launch stream a b s =
      { s with mem := [], pos := 0, phase := .running, rangeStart := a, rangeEnd := b, stream := stream,
               result := none } := by
  rw [launch, if_pos (legalRange_iff.mpr h)]
  rfl

theorem launch_of_illegal {stream : List Byte} {a b : Nat} (h : ¬ (a ≤ b ∧ b ≤ 256)) (s : State) :
    launch stream a b s =
      { s with mem := [], pos := 0, phase := .rejected, rangeStart := a, rangeEnd := b, stream := [],
               result := some (.rangeFault a b) } := by
  rw [launch, if_neg (fun hl => h (legalRange_iff.mp hl))]
  rfl

theorem finishRun_of_bounded {s : State} (h : s.rangeStart ≤ s.rangeEnd ∧ s.rangeEnd ≤ 256) :
    finishRun s =
      .next { s with phase := .done, result := some (.cells (slicePairs s.mem s.rangeStart s.rangeEnd)) } := by
  rw [finishRun, sliceFrom_eq _ _ _ (by omega)]
  rfl

/-- All the end of a run can do when it answers a next state. -/
theorem finishRun_next {s t : State} (h : finishRun s = .next t) :
    ∃ pairs, t = { s with phase := .done, result := some (.cells pairs) } := by
  rw [finishRun] at h
  split at h
  · exact ⟨_, (Host.Outcome.next.inj h).symm⟩
  · cases h

/-! ## A step -/

/-- All a step can do when it answers a next state. -/
theorem step_next_cases {s t : State} (h : step s = .next t) :
    (s.phase = .running ∧ ∃ g, fetch s = some g ∧ exec (decodeGroup g) s = .next t) ∨
    (s.phase = .running ∧ s.stream.length < s.pos + 3 ∧ finishRun s = .next t) ∨
    (s.phase ≠ .running ∧ ∃ r rest, s.requests = r :: rest ∧ t = serveRequest r (discardRun { s with requests := rest })) := by
  have served : ∀ {ref : Refusal}, serve ref s = .next t →
      ∃ r rest, s.requests = r :: rest ∧ t = serveRequest r (discardRun { s with requests := rest }) := by
    intro ref hs
    rw [serve] at hs
    split at hs
    · cases hs
    · next r rest hr => exact ⟨r, rest, hr, (Host.Outcome.next.inj hs).symm⟩
  rw [step] at h
  split at h
  · next hp =>
    split at h
    · next g hg => exact .inl ⟨hp, g, hg, h⟩
    · next hn => exact .inr (.inl ⟨hp, fetch_eq_none_iff.mp hn, h⟩)
  · next hp => exact .inr (.inr ⟨by simp [hp], served h⟩)
  · next hp => exact .inr (.inr ⟨by simp [hp], served h⟩)
  · next hp => exact .inr (.inr ⟨by simp [hp], served h⟩)

/-! ## Runs -/

@[simp] theorem runSteps_zero (s : State) : runSteps 0 s = .next s := rfl

/-- What the host's run does with its first step, for any machine. -/
theorem coreRun_succ (M : Host.Core) (s : M.State) (k : Nat) :
    (∀ t, M.step s = .next t → M.run (k + 1) s = M.run k t) ∧
    (∀ r, M.step s = .fault r → M.run (k + 1) s = .fault r) ∧
    (∀ r, M.step s = .refused r → M.run (k + 1) s = .refused r) := by
  refine ⟨fun _ h => ?_, fun _ h => ?_, fun _ h => ?_⟩ <;> simp only [Host.Core.run, h]

theorem runSteps_succ_of_next {s t : State} (h : step s = .next t) (k : Nat) : runSteps (k + 1) s = runSteps k t :=
  (coreRun_succ core s k).1 t h

theorem runSteps_succ_of_fault {s : State} {r : Fault} (h : step s = .fault r) (k : Nat) :
    runSteps (k + 1) s = .fault r :=
  (coreRun_succ core s k).2.1 r h

theorem runSteps_succ_of_refused {s : State} {r : Refusal} (h : step s = .refused r) (k : Nat) :
    runSteps (k + 1) s = .refused r :=
  (coreRun_succ core s k).2.2 r h

/-- A run of `j` steps and `k` more is a run of `j + k`. -/
theorem runSteps_add {j : Nat} : ∀ {s t : State}, runSteps j s = .next t → ∀ k, runSteps (j + k) s = runSteps k t := by
  induction j with
  | zero =>
    intro s t h k
    rw [Nat.zero_add, Host.Outcome.next.inj h]
  | succ j ih =>
    intro s t h k
    rw [Nat.add_right_comm]
    cases hs : step s with
    | next u =>
      rw [runSteps_succ_of_next hs] at h ⊢
      exact ih h k
    | fault r => rw [runSteps_succ_of_fault hs] at h; cases h
    | refused r => rw [runSteps_succ_of_refused hs] at h; cases h

/-! ## Streams -/

/-- The effect of a stream and one more group is the effect of the group after that of the stream. -/
theorem streamEffect_append_group (xs : List Byte) (hx : xs.length % 3 = 0) (g : Group) (m : Memory) :
    streamEffect (xs ++ g.toBytes) m = groupEffect g (streamEffect xs m) := by
  match xs, hx with
  | [], _ => rfl
  | b0 :: b1 :: b2 :: rest, hx =>
    exact streamEffect_append_group rest (by simp only [List.length_cons] at hx; omega) g _
  | [_], hx | [_, _], hx => simp at hx

end Sys2Proof.Machine
end

