-- ==== Sys2Proof/Machine/Flags.lean ====
section
/-! DEFINITION. "The hardware has no status flags, no condition codes and no predicates" (10_state.md R23): there is no
flag computation, and this file defines nothing. -/
end

