-- ==== Sys2Proof/Tests/Slice0.lean ====
section
/-! SUPPORT. The model's own tests: expected values are those of spec/95_test_vectors.md, or written out by hand from the
encoding (30_encoding.md R80, R82). Then one witness per statement that has hypotheses. -/

namespace Sys2Proof.Tests

open Sys2Proof Sys2Proof.Machine

/-! ## Helpers -/

/-- The next state of a step, where there is one. -/
def after (s : State) : Option State :=
  match step s with
  | .next t => some t
  | _ => none

/-- The operands (5, 10, 3) of the spec's vectors. -/
def args5103 : Args := ⟨5#3, 10#13, 3#3⟩

/-- A run in progress with the range 0 to 8. -/
def runningAt (stream : List Byte) (pos : Nat) (mem : Memory) : State :=
  { State.reset with phase := .running, stream := stream, pos := pos, mem := mem, rangeEnd := 8 }

/-- One step on a stream from `pos`, read as the new `pos` and one cell. -/
def posAndCell (s : State) (c : Nat) : Option (Nat × Option Int) := (after s).map fun t => (t.pos, memRead t.mem c)

/-- Reset with operations of the host to serve. -/
def asked (rs : List Request) : State := { State.reset with requests := rs }

/-- A completed run that stored 13 in cell 5, with one more request. -/
def doneWith (r : Request) : State :=
  { runningAt [0x5E#8, 0x15#8, 0xC0#8] 3 [(5, 13)] with
    phase := .done, result := some (.cells [(5, 13)]), requests := [r] }

/-! ## WellFormed: an ill-formed term for its one check (41_decoder.md R133) -/

theorem test_wf_refuses_arg3_4 : (Instr.addStore ⟨0#3, 0#13, 4#3⟩).wf = false := by decide

theorem test_wf_refuses_arg3_7 : (Instr.skip63 ⟨7#3, 8191#13, 7#3⟩).wf = false := by decide

theorem test_wf_accepts_arg3_3 : (Instr.subStore ⟨7#3, 8191#13, 3#3⟩).wf = true := by decide

/-! ## Decoding: every opcode with the operands (5, 10, 3): `byte0 = {B[1:0], A}` is 0x40 + A, `byte1 = {C[6:0], B[2]}` is
0x15, `byte2 = {D[1:0], C[12:7]}` is 0xC0 (30_encoding.md R82; 43_store_arith.md R180, R181) -/

theorem test_decode_opcodes_0_to_7 :
    [0x40#8, 0x41#8, 0x42#8, 0x43#8, 0x44#8, 0x45#8, 0x46#8, 0x47#8].map
        (fun b => decode [b, 0x15#8, 0xC0#8]) =
      ([.skip0 args5103, .subStore args5103, .skip2 args5103, .skip3 args5103, .skip4 args5103, .skip5 args5103, .skip6 args5103, .skip7 args5103] :
        List Instr).map (fun i => .ok (i, [])) := by decide

theorem test_decode_opcodes_8_to_15 :
    [0x48#8, 0x49#8, 0x4A#8, 0x4B#8, 0x4C#8, 0x4D#8, 0x4E#8, 0x4F#8].map
        (fun b => decode [b, 0x15#8, 0xC0#8]) =
      ([.skip8 args5103, .skip9 args5103, .skip10 args5103, .skip11 args5103, .skip12 args5103, .skip13 args5103, .skip14 args5103, .skip15 args5103] :
        List Instr).map (fun i => .ok (i, [])) := by decide

theorem test_decode_opcodes_16_to_23 :
    [0x50#8, 0x51#8, 0x52#8, 0x53#8, 0x54#8, 0x55#8, 0x56#8, 0x57#8].map
        (fun b => decode [b, 0x15#8, 0xC0#8]) =
      ([.skip16 args5103, .skip17 args5103, .skip18 args5103, .skip19 args5103, .skip20 args5103, .skip21 args5103, .skip22 args5103, .skip23 args5103] :
        List Instr).map (fun i => .ok (i, [])) := by decide

theorem test_decode_opcodes_24_to_31 :
    [0x58#8, 0x59#8, 0x5A#8, 0x5B#8, 0x5C#8, 0x5D#8, 0x5E#8, 0x5F#8].map
        (fun b => decode [b, 0x15#8, 0xC0#8]) =
      ([.skip24 args5103, .skip25 args5103, .skip26 args5103, .skip27 args5103, .skip28 args5103, .skip29 args5103, .addStore args5103, .skip31 args5103] :
        List Instr).map (fun i => .ok (i, [])) := by decide

theorem test_decode_opcodes_32_to_39 :
    [0x60#8, 0x61#8, 0x62#8, 0x63#8, 0x64#8, 0x65#8, 0x66#8, 0x67#8].map
        (fun b => decode [b, 0x15#8, 0xC0#8]) =
      ([.skip32 args5103, .skip33 args5103, .skip34 args5103, .skip35 args5103, .skip36 args5103, .skip37 args5103, .skip38 args5103, .skip39 args5103] :
        List Instr).map (fun i => .ok (i, [])) := by decide

theorem test_decode_opcodes_40_to_47 :
    [0x68#8, 0x69#8, 0x6A#8, 0x6B#8, 0x6C#8, 0x6D#8, 0x6E#8, 0x6F#8].map
        (fun b => decode [b, 0x15#8, 0xC0#8]) =
      ([.skip40 args5103, .skip41 args5103, .skip42 args5103, .skip43 args5103, .skip44 args5103, .skip45 args5103, .skip46 args5103, .skip47 args5103] :
        List Instr).map (fun i => .ok (i, [])) := by decide

theorem test_decode_opcodes_48_to_55 :
    [0x70#8, 0x71#8, 0x72#8, 0x73#8, 0x74#8, 0x75#8, 0x76#8, 0x77#8].map
        (fun b => decode [b, 0x15#8, 0xC0#8]) =
      ([.skip48 args5103, .skip49 args5103, .skip50 args5103, .skip51 args5103, .skip52 args5103, .skip53 args5103, .skip54 args5103, .skip55 args5103] :
        List Instr).map (fun i => .ok (i, [])) := by decide

theorem test_decode_opcodes_56_to_63 :
    [0x78#8, 0x79#8, 0x7A#8, 0x7B#8, 0x7C#8, 0x7D#8, 0x7E#8, 0x7F#8].map
        (fun b => decode [b, 0x15#8, 0xC0#8]) =
      ([.skip56 args5103, .skip57 args5103, .skip58 args5103, .skip59 args5103, .skip60 args5103, .skip61 args5103, .skip62 args5103, .skip63 args5103] :
        List Instr).map (fun i => .ok (i, [])) := by decide

/-- 95_test_vectors.md section 3: `9E C8 40`, `9E 0C 40`, `C1 FF FF`, `DE FF 3F`. -/
theorem test_decode_vectors :
    decode [0x9E#8, 0xC8#8, 0x40#8] = .ok (.addStore ⟨2#3, 100#13, 1#3⟩, []) ∧
    decode [0x9E#8, 0x0C#8, 0x40#8] = .ok (.addStore ⟨2#3, 6#13, 1#3⟩, []) ∧
    decode [0xC1#8, 0xFF#8, 0xFF#8] = .ok (.subStore ⟨7#3, 8191#13, 3#3⟩, []) ∧
    decode [0xDE#8, 0xFF#8, 0x3F#8] = .ok (.addStore ⟨7#3, 8191#13, 0#3⟩, []) := by decide

/-- One bit at a time (95_test_vectors.md section 3): arg1 bits 0 to 2, arg2 bits 0, 6, 7, 12, arg3 bits 0, 1. -/
theorem test_decode_single_bits :
    [(0x40#8, 0x00#8, 0x00#8), (0x80#8, 0x00#8, 0x00#8), (0x00#8, 0x01#8, 0x00#8), (0x00#8, 0x02#8, 0x00#8),
      (0x00#8, 0x80#8, 0x00#8), (0x00#8, 0x00#8, 0x01#8), (0x00#8, 0x00#8, 0x20#8), (0x00#8, 0x00#8, 0x40#8),
      (0x00#8, 0x00#8, 0x80#8)].map (fun b => decodeGroup ⟨b.1, b.2.1, b.2.2⟩) =
    [.skip0 ⟨1#3, 0#13, 0#3⟩, .skip0 ⟨2#3, 0#13, 0#3⟩, .skip0 ⟨4#3, 0#13, 0#3⟩, .skip0 ⟨0#3, 1#13, 0#3⟩,
      .skip0 ⟨0#3, 64#13, 0#3⟩, .skip0 ⟨0#3, 128#13, 0#3⟩, .skip0 ⟨0#3, 4096#13, 0#3⟩, .skip0 ⟨0#3, 0#13, 1#3⟩,
      .skip0 ⟨0#3, 0#13, 2#3⟩] := by decide

theorem test_decode_fragment_rejected : decode [0x5E#8, 0x15#8] = .error (.trailingFragment 2) := by decide

theorem test_decodeTableWord_source_example : decodeTableWord 24 0x40C89E = some (.addStore ⟨2#3, 100#13, 1#3⟩) := by
  decide

/-! ## Encoding (95_test_vectors.md section 2) -/

theorem test_encode_source_example : encode (.addStore ⟨2#3, 100#13, 1#3⟩) = [0x9E#8, 0xC8#8, 0x40#8] := by decide

theorem test_encoder_vectors :
    (recordOf ⟨30, 2, 100, none⟩).bytes = ⟨0x9E#8, 0xC8#8, 0x00#8⟩ ∧
    (recordOf ⟨63, 7, 8191, some 7⟩).word = 0xFFFFFF#24 ∧ packFields ⟨63, 7, 8191, some 7⟩ = 0x1FFFFFF#25 ∧
    (recordOf ⟨65, 0, 0, none⟩).bytes = ⟨0x01#8, 0x00#8, 0x00#8⟩ ∧
    (recordOf ⟨30, 0, 0, some 5⟩).bytes = ⟨0x1E#8, 0x00#8, 0x40#8⟩ ∧
    (recordOf ⟨30, 9, 1, none⟩).bytes = ⟨0x5E#8, 0x02#8, 0x00#8⟩ := by decide

/-- Negative and large inputs. -/
theorem test_encoder_masks :
    (recordOf ⟨-63, -7, -8191, some (-3)⟩).bytes = ⟨0x41#8, 0x02#8, 0x40#8⟩ ∧
    (recordOf ⟨-34, 0, 0, none⟩).bytes = ⟨0x1E#8, 0x00#8, 0x00#8⟩ ∧
    (recordOf ⟨1000000, 1000000, 1000000, some 1000000⟩).bytes = ⟨0x00#8, 0x80#8, 0x04#8⟩ := by decide

/-- Two calls from an empty encoder: batch, log and binary output in order, literal fields in the log. -/
theorem test_encoder_side_effects :
    let s := assemble [⟨30, 2, 100, some 1⟩, ⟨1, 5, 10, none⟩] State.reset
    binaryOutput s = [0x9E#8, 0xC8#8, 0x40#8, 0x41#8, 0x15#8, 0x00#8] ∧
    s.log = [⟨⟨30, 2, 100, some 1⟩, ⟨0x9E#8, 0xC8#8, 0x40#8⟩⟩, ⟨⟨1, 5, 10, none⟩, ⟨0x41#8, 0x15#8, 0x00#8⟩⟩] := by
  decide

/-! ## Instructions, one step each (95_test_vectors.md section 4) -/

theorem test_add_store : posAndCell (runningAt [0x5E#8, 0x15#8, 0xC0#8] 0 []) 5 = some (3, some 13) := by decide

/-- A store of 0 clears the cell, and the memory is again the one with nothing listed. -/
theorem test_add_store_zero :
    (after (runningAt (List.replicate 9 0#8 ++ [0x1E#8, 0x00#8, 0x00#8]) 9 [(0, 55)])).map (fun t => (t.pos, t.mem)) =
      some (12, []) := by decide

theorem test_sub_store_overwrites :
    posAndCell (runningAt [0x5E#8, 0x15#8, 0xC0#8, 0x41#8, 0x15#8, 0xC0#8] 3 [(5, 13)]) 5 = some (6, some 7) := by decide

theorem test_sub_store_negative : posAndCell (runningAt [0x01#8, 0x00#8, 0xC0#8] 0 []) 0 = some (3, some (-3)) := by
  decide

theorem test_skip0 :
    posAndCell (runningAt (List.replicate 9 0#8) 6 [(0, 4)]) 0 = some (9, some 4) := by decide

theorem test_skip63 : posAndCell (runningAt [0xFF#8, 0xFF#8, 0xFF#8] 0 []) 7 = some (3, some 0) := by decide

theorem test_skip29 : posAndCell (runningAt [0x5D#8, 0x15#8, 0xC0#8] 0 []) 5 = some (3, some 0) := by decide

theorem test_skip31 : posAndCell (runningAt [0x5F#8, 0x15#8, 0xC0#8] 0 []) 5 = some (3, some 0) := by decide

theorem test_skip2 : posAndCell (runningAt [0x42#8, 0x15#8, 0xC0#8] 0 []) 5 = some (3, some 0) := by decide

/-- The first instruction after reset, placed from outside: `9E C8 40` (42_interpreter_fsm.md section 8). -/
theorem test_first_instruction_after_reset :
    posAndCell (State.reset.withFetchWord 24 0x40C89E) 2 = some (3, some 101) := by decide

/-! ## Launch and end (95_test_vectors.md sections 5 and 6) -/

theorem test_launch_256_256_is_legal :
    (after (asked [.run [0x5E#8] 256 256])).map (fun t => (t.phase, t.pos)) = some (.running, 0) := by decide

theorem test_launch_0_257_is_refused :
    (after (asked [.run [0x5E#8] 0 257])).map (fun t => (t.phase, t.result)) =
      some (.rejected, some (.rangeFault 0 257)) := by decide

theorem test_launch_9_4_is_refused :
    (after (asked [.run [0x1E#8, 0x0A#8, 0x80#8] 9 4])).map (fun t => (t.phase, t.result, t.cell? 0)) =
      some (.rejected, some (.rangeFault 9 4), none) := by decide

/-- A fragment of 2 bytes is dropped: the run ends and the slice 5:6 of cell 5 is taken. -/
theorem test_fragment_dropped :
    (after { runningAt [0x5E#8, 0x15#8, 0xC0#8, 0x41#8, 0x15#8] 3 [(5, 13)] with rangeStart := 5, rangeEnd := 6 }).map
      (fun t => (t.phase, t.pos, t.result)) = some (.done, 3, some (.cells [(5, 13)])) := by decide

theorem test_slice_250_256 :
    (after { runningAt [] 0 [(0, -1)] with rangeStart := 250, rangeEnd := 256 }).map (fun t => t.result) =
      some (some (.cells [(250, 0), (251, 0), (252, 0), (253, 0), (254, 0), (255, 0)])) := by decide

/-- In DONE the host's next request takes the result and MEM is discarded (42_interpreter_fsm.md R158): here with no
more asked for than that, then with an `Encode`. -/
theorem test_taken_result_discards_mem :
    (after (doneWith .takeResult)).map (fun t => (t.phase, t.mem, t.cell? 5)) = some (.idle, [], none) ∧
    (after (doneWith .takeResult)).bind State.result = some (.cells [(5, 13)]) := by decide

theorem test_encode_after_done_discards_mem :
    (after (doneWith (.encode ⟨30, 2, 100, some 1⟩))).map (fun t => (t.phase, t.mem, t.cell? 5)) =
      some (.idle, [], none) := by decide

/-! ## Witnesses: concrete states and operands that meet the hypotheses of each statement that has some -/

/-- EncodeThenDecodeGivesTheInstruction, at the operand maxima. -/
theorem witness_well_formed : (Instr.skip63 ⟨7#3, 8191#13, 3#3⟩).wf = true := by decide

/-- DecodeThenEncodeGivesTheBytes. -/
theorem witness_decodes :
    decode [0x9E#8, 0xC8#8, 0x40#8, 0x41#8] = .ok (.addStore ⟨2#3, 100#13, 1#3⟩, [0x41#8]) := by decide

/-- EncodeRequestAppendsRecordAndLog, in IDLE, and in DONE with memory and an answer to be taken. -/
theorem witness_encode_request :
    let f : FieldSet := ⟨30, 2, 100, some 1⟩
    let s := asked [.encode f, .beginAssembly]
    let s' := doneWith (.encode f)
    s.phase ≠ .running ∧ s.requests = .encode f :: [.beginAssembly] ∧
    s'.phase = .done ∧ s'.requests = .encode f :: [] ∧ s'.mem ≠ [] ∧ s'.result ≠ none := by decide

/-- AssemblyGivesOneRecordPerLine, with two lines in IDLE, and with none in DONE, with memory and an answer to be taken. -/
theorem witness_assembly :
    let lines : List FieldSet := [⟨30, 2, 100, some 1⟩, ⟨1, 5, 10, none⟩]
    let s := asked [.beginAssembly, .encode ⟨30, 2, 100, some 1⟩, .encode ⟨1, 5, 10, none⟩, .run [] 0 0]
    let s' := doneWith .beginAssembly
    s.phase ≠ .running ∧ s.requests = .beginAssembly :: (lines.map Request.encode ++ [.run [] 0 0]) ∧
    s'.phase = .done ∧ s'.requests = .beginAssembly :: (List.map Request.encode [] ++ []) ∧
    s'.mem ≠ [] ∧ s'.result ≠ none := by decide

/-- LegalLaunchStartsAtZeroOnZeroedMemory, AcceptedRunEndsWithTheFoldOfItsGroups, RunResultDoesNotDependOnHistory (with
another state of another history): the empty range at the top, and the whole memory. -/
theorem witness_legal_launch :
    let s := asked [.run [0x5E#8, 0x15#8, 0xC0#8, 0x41#8] 256 256]
    let s' : State := { asked [.run [0x5E#8, 0x15#8, 0xC0#8, 0x41#8] 256 256, .beginAssembly] with
      phase := .done, mem := [(5, 13)], pos := 3 }
    s.phase ≠ .running ∧ s'.phase ≠ .running ∧ s.requests = .run [0x5E#8, 0x15#8, 0xC0#8, 0x41#8] 256 256 :: [] ∧
    s'.requests = .run [0x5E#8, 0x15#8, 0xC0#8, 0x41#8] 256 256 :: [.beginAssembly] ∧ 256 ≤ 256 := by decide

theorem witness_legal_launch_whole_memory :
    let s := asked [.run [0x5E#8, 0x15#8, 0xC0#8] 0 256]
    s.phase ≠ .running ∧ s.requests = .run [0x5E#8, 0x15#8, 0xC0#8] 0 256 :: [] ∧ 0 ≤ 256 ∧ 256 ≤ 256 := by decide

/-- IllegalLaunchRaisesRangeFault, each of its two causes at its edge. -/
theorem witness_illegal_launch_inverted :
    let s := asked [.run [0x5E#8] 5 4]
    s.phase ≠ .running ∧ s.requests = .run [0x5E#8] 5 4 :: [] ∧ (4 < 5 ∨ 256 < 4) := by decide

theorem witness_illegal_launch_past_the_end :
    let s := asked [.run [0x5E#8] 0 257]
    s.phase ≠ .running ∧ s.requests = .run [0x5E#8] 0 257 :: [] ∧ (257 < 0 ∨ 256 < 257) := by decide

/-- RunResultDoesNotDependOnHistory and TrailingFragmentHasNoEffect, their refused launches. -/
theorem witness_refused_from_two_histories :
    let s := asked [.run [0x5E#8, 0x15#8, 0xC0#8, 0x41#8] 9 4]
    let s' : State := { asked [.run [0x5E#8, 0x15#8, 0xC0#8, 0x41#8] 9 4, .beginAssembly] with
      phase := .done, mem := [(5, 13)], pos := 3 }
    s.phase ≠ .running ∧ s'.phase ≠ .running ∧ s.requests = .run [0x5E#8, 0x15#8, 0xC0#8, 0x41#8] 9 4 :: [] ∧
    s'.requests = .run [0x5E#8, 0x15#8, 0xC0#8, 0x41#8] 9 4 :: [.beginAssembly] ∧ ¬ (9 ≤ 4 ∧ 4 ≤ 256) := by decide

/-- TakenResultDiscardsMemory and RequestOrStreamDecidesThePhase: a completed run with memory, and as its next request one
that is no launch, the taking itself, and a launch. -/
theorem witness_done_with_request :
    ∀ r ∈ [Request.beginAssembly, .takeResult, .run [0x5E#8] 0 8],
      (doneWith r).phase = .done ∧ (doneWith r).requests = r :: [] ∧ (doneWith r).cell? 5 = some 13 :=
  fun _ _ => ⟨rfl, rfl, rfl⟩

/-- TakenResultDiscardsMemory and RequestOrStreamDecidesThePhase: the taking asked for in IDLE, and in REJECTED with the
fault to be taken. -/
theorem witness_take_result_idle_and_rejected :
    let s := asked [.takeResult, .beginAssembly]
    let s' : State := { s with phase := .rejected, rangeStart := 9, rangeEnd := 4, result := some (.rangeFault 9 4) }
    s.phase = .idle ∧ s.requests = .takeResult :: [.beginAssembly] ∧ (after s).isSome ∧
    s'.phase = .rejected ∧ s'.requests = .takeResult :: [.beginAssembly] ∧ (after s').isSome := by decide

/-- NothingHappensUnasked, its three phases. -/
theorem witness_unasked :
    State.reset.requests = [] ∧ State.reset.phase = .idle ∧
    (∃ s : State, s.requests = [] ∧ s.phase = .done) ∧ (∃ s : State, s.requests = [] ∧ s.phase = .rejected) :=
  ⟨rfl, rfl, ⟨{ State.reset with phase := .done }, rfl, rfl⟩, ⟨{ State.reset with phase := .rejected }, rfl, rfl⟩⟩

/-- StepRunsTheDecodedInstruction, GroupConsumedExactlyWhenThreeBytesRemain and RunningStepFetchesDispatchesAdvances, with
exactly 3 bytes left after a group. -/
theorem witness_group_left :
    let s := runningAt [0x5E#8, 0x15#8, 0xC0#8, 0x41#8, 0x15#8, 0xC0#8] 3 [(5, 13)]
    s.phase = .running ∧ 3 ≤ s.stream.length - s.pos ∧
    decode (s.stream.drop s.pos) = .ok (.subStore args5103, []) := by decide

/-- PlacedWordRunsNext. -/
theorem witness_table_word : decodeTableWord 24 0xC01541 = some (.subStore args5103) := by decide

/-- EndOfStreamReturnsTheSlice and GroupConsumedExactlyWhenThreeBytesRemain, with 2 bytes left. -/
theorem witness_fragment_left :
    let s := runningAt [0x5E#8, 0x15#8] 0 []
    s.phase = .running ∧ s.stream.length - s.pos < 3 ∧ s.rangeStart ≤ s.rangeEnd ∧ s.rangeEnd ≤ 256 := by decide

/-- SkipOnlyAdvances, at the neighbours of the two storing opcodes. -/
theorem witness_skips :
    (Instr.skip0 args5103).opcode ≠ 30#6 ∧ (Instr.skip0 args5103).opcode ≠ 1#6 ∧
    (Instr.skip31 args5103).opcode ≠ 30#6 ∧ (Instr.skip31 args5103).opcode ≠ 1#6 := by decide

/-- NoInstructionWritesHighCells, at the highest cell an instruction writes and the lowest it does not. -/
theorem witness_next_state : ∃ s t, exec (.addStore ⟨7#3, 8191#13, 3#3⟩) s = .next t ∧ (8 : Nat) ≤ 8 :=
  ⟨State.reset, _, rfl, le_refl 8⟩

/-- LaterStoreWins, for an ADD_STORE and a later SUB_STORE to cell 5. -/
theorem witness_two_stores :
    ∃ s t u v, ((Instr.addStore args5103).opcode = 30#6 ∨ (Instr.addStore args5103).opcode = 1#6) ∧
      ((Instr.subStore args5103).opcode = 30#6 ∨ (Instr.subStore args5103).opcode = 1#6) ∧
      (Instr.addStore args5103).args.arg1 = (Instr.subStore args5103).args.arg1 ∧
      exec (.addStore args5103) s = .next t ∧ exec (.subStore args5103) t = .next u ∧
      exec (.subStore args5103) s = .next v :=
  ⟨State.reset, _, _, _, .inl rfl, .inr rfl, rfl, rfl, rfl, rfl⟩

/-- RunningStepLeavesStreamEncoderAndHost, RequestOrStreamDecidesThePhase and EveryStepKeepsMemoryCanonical: a running
state with a canonical memory that has a next state. -/
theorem witness_running_step :
    ∃ t, (runningAt [0x5E#8, 0x15#8, 0xC0#8] 0 []).phase = .running ∧
      Memory.wf (runningAt [0x5E#8, 0x15#8, 0xC0#8] 0 []).mem ∧
      step (runningAt [0x5E#8, 0x15#8, 0xC0#8] 0 []) = .next t :=
  ⟨_, rfl, by decide, rfl⟩

/-- RequestOrStreamDecidesThePhase, its edge: 2 bytes are left, and the step is the end of the run. -/
theorem witness_ending_step :
    let s := runningAt [0x5E#8, 0x15#8, 0xC0#8, 0x41#8, 0x15#8] 3 [(5, 13)]
    s.phase = .running ∧ s.stream.length = s.pos + 2 ∧ (after s).isSome := by decide

/-- EveryStepKeepsInvariant, NoStepFaultsUnderInvariant and OnlyUnaskedStepsStop: a run at its first group meets the
invariant and has a next state. -/
theorem witness_invariant :
    ∃ t, Inv (runningAt [0x5E#8, 0x15#8, 0xC0#8] 0 []) ∧ step (runningAt [0x5E#8, 0x15#8, 0xC0#8] 0 []) = .next t :=
  ⟨_,
    { mem_canonical := by decide
      high_cells_zero := fun _ _ => rfl
      cells_bounded := fun a => by
        show -3 ≤ cellAt [] a ∧ cellAt [] a ≤ 8194
        simp
      accepted := fun _ =>
        { pos_multiple := rfl, pos_bound := by decide, range_legal := by decide, mem_of_stream := rfl }
      ended := fun h => nomatch h
      refused := fun h => nomatch h
      no_memory := fun h => by rcases h with h | h <;> cases h
      no_result_in_run := fun _ => rfl
      records := fun _ h => nomatch h
      log_matches := rfl },
    rfl⟩

/-- FinalCellIsTheLastStoreToIt: a run of one group with a trailing fragment, three steps from the launch, with a next
state. -/
theorem witness_whole_run :
    ∃ t, (asked [.run [0x5E#8, 0x15#8, 0xC0#8, 0x41#8] 0 8]).phase ≠ .running ∧
      (asked [.run [0x5E#8, 0x15#8, 0xC0#8, 0x41#8] 0 8]).requests =
        .run [0x5E#8, 0x15#8, 0xC0#8, 0x41#8] 0 8 :: [] ∧
      (0 : Nat) ≤ 8 ∧ 8 ≤ 256 ∧ (255 : Nat) < 256 ∧
      runSteps ([0x5E#8, 0x15#8, 0xC0#8, 0x41#8].length / 3 + 2)
        (asked [.run [0x5E#8, 0x15#8, 0xC0#8, 0x41#8] 0 8]) = .next t :=
  ⟨_, by decide, rfl, by decide, by decide, by decide, rfl⟩

/-- TrailingFragmentHasNoEffect, with a fragment of 1 byte. -/
theorem witness_fragment_run :
    ∃ s' : State, (asked [.run [0x5E#8, 0x15#8, 0xC0#8, 0x41#8] 0 8]).phase ≠ .running ∧
      (asked [.run [0x5E#8, 0x15#8, 0xC0#8, 0x41#8] 0 8]).requests =
        .run [0x5E#8, 0x15#8, 0xC0#8, 0x41#8] 0 8 :: [] ∧
      s' = { asked [.run [0x5E#8, 0x15#8, 0xC0#8, 0x41#8] 0 8] with
        requests := .run ([0x5E#8, 0x15#8, 0xC0#8, 0x41#8].take 3) 0 8 :: [] } ∧ (0 : Nat) ≤ 8 ∧ 8 ≤ 256 :=
  ⟨_, by decide, rfl, rfl, by decide, by decide⟩

/-- AssembledLinesRunAsWritten: the source's line, assembled and run over 0:4 (95_test_vectors.md P5). -/
theorem witness_assembled_run :
    let lines : List FieldSet := [⟨30, 2, 100, some 1⟩]
    let s := asked [.beginAssembly, .encode ⟨30, 2, 100, some 1⟩, .run [0x9E#8, 0xC8#8, 0x40#8] 0 4]
    s.phase ≠ .running ∧
    s.requests = .beginAssembly :: (lines.map Request.encode ++
      .run (lines.flatMap fun f => (packedBytes (packFields f)).toBytes) 0 4 :: []) ∧ 0 ≤ 4 ∧ 4 ≤ 256 := by decide

end Sys2Proof.Tests
end

section
/-! PROOF. ENC with D absent (40_encoder.md R114): `maskD` sends an absent D and `D = 0` to the same three bits, so the two
field sets pack to one word, which has nothing from bit 22 up. -/

namespace Sys2Proof.Machine

theorem maskD_some_zero : maskD (some 0) = maskD none := by decide

theorem packFields_some_zero (A B C : Int) : packFields ⟨A, B, C, some 0⟩ = packFields ⟨A, B, C, none⟩ := by
  simp only [packFields, maskD_some_zero]

/-- Bits 24:22 of the packed word are 0: the masked A, B and C end below bit 22. -/
theorem packFields_none_lt (A B C : Int) : (packFields ⟨A, B, C, none⟩).toNat < 4194304 := by
  have ha := (maskTo 6 A).isLt
  have hb := (maskTo 3 B).isLt
  have hc := (maskTo 13 C).isLt
  have hd : (maskD none).toNat = 0 := rfl
  rw [packFields, pack_toNat, hd]
  omega

/-- `byte2[7:6]` are bits 23:22 of the packed word (R113). -/
theorem packedBytes_byte2_lt {w : Word25} (h : w.toNat < 4194304) : (packedBytes w).byte2.toNat < 64 := by
  rw [packedBytes_byte2_toNat]
  omega

/-- Settles O7: an absent D packs to the word of `D = 0`, and that word is below bit 22. -/
theorem absentDEncodesAsZero : Obligations.AbsentDEncodesAsZero := by
  intro A B C
  have hlt := packFields_none_lt A B C
  refine ⟨hlt, Nat.div_eq_of_lt (packedBytes_byte2_lt hlt), ?record, ?logEntry⟩
  case record => simp only [recordOf, packFields_some_zero]
  case logEntry => simp only [logEntryOf, packFields_some_zero]

end Sys2Proof.Machine
end

section
/-! PROOF. DEC's word and fields (41_decoder.md R131, R132): the word's 8-bit slices are the bytes of the group under a
zero byte, and the bits of each field are bits of one or two neighbouring bytes. -/

namespace Sys2Proof.Machine

@[simp] theorem dec_word32 (g : Group) : (dec g).word32 = groupWord32 g := rfl

/-! ## The slices of the word -/

theorem groupWord32_slice_toNat (g : Group) (k : Nat) :
    ((groupWord32 g).extractLsb' k 8).toNat =
      (g.byte0.toNat + 256 * g.byte1.toNat + 65536 * g.byte2.toNat) / 2 ^ k % 256 := by
  rw [BitVec.extractLsb'_toNat, Nat.shiftRight_eq_div_pow, groupWord32_toNat]

theorem groupWord32_slice_byte0 (g : Group) : (groupWord32 g).extractLsb' 0 8 = g.byte0 := by
  apply BitVec.eq_of_toNat_eq
  have h0 := g.byte0.isLt
  rw [groupWord32_slice_toNat]
  omega

theorem groupWord32_slice_byte1 (g : Group) : (groupWord32 g).extractLsb' 8 8 = g.byte1 := by
  apply BitVec.eq_of_toNat_eq
  have h0 := g.byte0.isLt
  have h1 := g.byte1.isLt
  rw [groupWord32_slice_toNat]
  omega

theorem groupWord32_slice_byte2 (g : Group) : (groupWord32 g).extractLsb' 16 8 = g.byte2 := by
  apply BitVec.eq_of_toNat_eq
  have h0 := g.byte0.isLt
  have h1 := g.byte1.isLt
  have h2 := g.byte2.isLt
  rw [groupWord32_slice_toNat]
  omega

/-- The synthetic high byte (R131): the word ends below bit 24. -/
theorem groupWord32_slice_high (g : Group) : (groupWord32 g).extractLsb' 24 8 = 0#8 := by
  apply BitVec.eq_of_toNat_eq
  have hw := groupWord32_lt g
  rw [BitVec.extractLsb'_toNat, Nat.shiftRight_eq_div_pow, Nat.div_eq_of_lt hw]
  rfl

/-! ## The fields by byte -/

/-- `opcode = byte0[5:0]`. -/
theorem dec_opcode_byte (g : Group) : (dec g).opcode.toNat = g.byte0.toNat % 64 := by
  rw [dec_opcode_toNat, groupWord32_toNat]
  omega

/-- `arg1 = {byte1[0], byte0[7:6]}`. -/
theorem dec_arg1_bytes (g : Group) :
    (dec g).arg1.toNat = 4 * (g.byte1.toNat % 2) + g.byte0.toNat / 64 := by
  have h0 := g.byte0.isLt
  rw [dec_arg1_toNat, groupWord32_toNat]
  omega

/-- `arg2 = {byte2[5:0], byte1[7:1]}`. -/
theorem dec_arg2_bytes (g : Group) :
    (dec g).arg2.toNat = 128 * (g.byte2.toNat % 64) + g.byte1.toNat / 2 := by
  have h0 := g.byte0.isLt
  have h1 := g.byte1.isLt
  rw [dec_arg2_toNat, groupWord32_toNat]
  omega

/-- `arg3 = {0, byte2[7:6]}`: the third bit of the field is the synthetic zero. -/
theorem dec_arg3_byte (g : Group) : (dec g).arg3.toNat = g.byte2.toNat / 64 := by
  have h0 := g.byte0.isLt
  have h1 := g.byte1.isLt
  have h2 := g.byte2.isLt
  rw [dec_arg3_toNat, groupWord32_toNat]
  omega

/-- Settles O2: the word by its bytes and slices, then each field by the word's bits and by the bytes' bits. -/
theorem decoderFieldsAreTheWordsBits : Obligations.DecoderFieldsAreTheWordsBits := by
  intro g
  simp only [dec_word32]
  exact ⟨groupWord32_toNat g, Nat.le_of_lt_succ (groupWord32_lt g),
    groupWord32_slice_byte0 g, groupWord32_slice_byte1 g, groupWord32_slice_byte2 g, groupWord32_slice_high g,
    dec_opcode_toNat g, dec_arg1_toNat g, dec_arg2_toNat g, dec_arg3_toNat g,
    dec_opcode_byte g, dec_arg1_bytes g, dec_arg2_bytes g, dec_arg3_byte g⟩

end Sys2Proof.Machine
end

section
/-! PROOF. The step in RUNNING (42_interpreter_fsm.md R154): the group at `pos` is fetched, every instruction completes,
and what it does to each cell, to `pos` and to the rest of the state is read off the three cases of `exec_next_cases`. -/

namespace Sys2Proof.Machine

/-! ## What every instruction does -/

/-- There is no instruction that faults or is refused (60_exceptions.md R202). -/
theorem exec_completes (i : Instr) (s : State) : ∃ t, exec i s = .next t := by
  cases i <;> exact ⟨_, rfl⟩

theorem sameButMemPos_advance (s : State) : sameButMemPos s (advance s) :=
  ⟨rfl, rfl, rfl, rfl, rfl, rfl, rfl, rfl⟩

theorem sameButMemPos_advance_storeCell (c : CellIndex) (v : Int) (s : State) :
    sameButMemPos s (advance (storeCell c v s)) :=
  ⟨rfl, rfl, rfl, rfl, rfl, rfl, rfl, rfl⟩

/-- `pos <- pos + 3`, whatever the instruction (10_state.md R22). -/
theorem exec_pos {i : Instr} {s t : State} (h : exec i s = .next t) : t.pos = s.pos + 3 := by
  obtain ⟨a, -, rfl⟩ | ⟨a, -, rfl⟩ | ⟨-, -, rfl⟩ := exec_next_cases h
  · rw [advance_pos, storeCell_pos]
  · rw [advance_pos, storeCell_pos]
  · rw [advance_pos]

theorem exec_sameButMemPos {i : Instr} {s t : State} (h : exec i s = .next t) : sameButMemPos s t := by
  obtain ⟨a, -, rfl⟩ | ⟨a, -, rfl⟩ | ⟨-, -, rfl⟩ := exec_next_cases h
  · exact sameButMemPos_advance_storeCell _ _ s
  · exact sameButMemPos_advance_storeCell _ _ s
  · exact sameButMemPos_advance s

/-- Every cell after an instruction, by its opcode and operands. -/
theorem exec_cellAt {i : Instr} {s t : State} (h : exec i s = .next t) (a : Nat) :
    cellAt t.mem a =
      if a = i.args.arg1.toNat then
        if i.opcode = 30#6 then (i.args.arg2.toNat : Int) + i.args.arg3.toNat
        else if i.opcode = 1#6 then (i.args.arg2.toNat : Int) - i.args.arg3.toNat
        else cellAt s.mem a
      else cellAt s.mem a := by
  obtain ⟨b, rfl, rfl⟩ | ⟨b, rfl, rfl⟩ | ⟨hadd, hsub, rfl⟩ := exec_next_cases h
  · exact cellAt_memWrite s.mem (destCell b) (sumOf b) a
  · exact cellAt_memWrite s.mem (destCell b) (differenceOf b) a
  · rw [advance_mem, if_neg hadd, if_neg hsub, ite_self]

/-! ## The fetch -/

theorem exists_fetch_of_three_le {s : State} (h : 3 ≤ s.stream.length - s.pos) : ∃ g, fetch s = some g := by
  have hne : fetch s ≠ none := fun hn => by
    have := fetch_eq_none_iff.mp hn
    omega
  exact Option.ne_none_iff_exists'.mp hne

/-- The fetched group is the three bytes the stream holds at `pos`. -/
theorem streamRead_of_fetch {s : State} {g : Group} (h : fetch s = some g) :
    streamRead s.stream s.pos 3 = some [g.byte0, g.byte1, g.byte2] := by
  obtain ⟨rest, hd⟩ := fetch_eq_some_iff.mp h
  have hlen := congrArg List.length hd
  simp only [List.length_drop, List.length_cons] at hlen
  rw [streamRead, if_pos (by omega), hd]
  rfl

theorem step_of_fetch {s : State} {g : Group} (hp : s.phase = .running) (hf : fetch s = some g) :
    step s = exec (decodeGroup g) s := by
  simp only [step, hp, hf]

/-- Settles O19: the step is the instruction of the fetched group, whose opcode and operands are DEC's. -/
theorem runningStepFetchesDispatchesAdvances : Obligations.RunningStepFetchesDispatchesAdvances := by
  intro s hp hleft
  obtain ⟨g, hf⟩ := exists_fetch_of_three_le hleft
  obtain ⟨t, ht⟩ := exec_completes (decodeGroup g) s
  refine ⟨g.byte0, g.byte1, g.byte2, t, streamRead_of_fetch hf, (step_of_fetch hp hf).trans ht, exec_pos ht,
    exec_sameButMemPos ht, fun a => ?cells⟩
  case cells =>
    have hcell := exec_cellAt ht a
    rw [decodeGroup_opcode, decodeGroup_args] at hcell
    exact hcell

end Sys2Proof.Machine
end

section
/-! PROOF. ADD_STORE (43_store_arith.md R180): the group's low six bits are DEC's opcode, the store is one write of MEM read
back, and the frame is that of every instruction. -/

namespace Sys2Proof.Machine

/-! ## The groups of an opcode -/

/-- `opcode = word32[5:0]` (41_decoder.md R132), by the group's own number. -/
theorem dec_opcode_groupNat (g : Group) : (dec g).opcode.toNat = groupNat g % 64 := by
  rw [dec_opcode_toNat, groupWord32_toNat, groupNat]

theorem opcode_eq_30_iff {i : Instr} : i.opcode = 30#6 ↔ ∃ a, i = .addStore a := by
  constructor
  · exact fun h => ⟨i.args, Instr.ext_fields h rfl⟩
  · rintro ⟨a, rfl⟩
    rfl

/-! ## MEM after a write (20_memory.md R54, R55) -/

theorem memRead_memWrite_same (m : Memory) (c : CellIndex) (v : Int) : memRead (memWrite m c v) c = some v := by
  rw [memRead_of_lt _ c.isLt, cellAt_memWrite, if_pos rfl]

theorem memRead_memWrite_of_ne (m : Memory) {c : CellIndex} (v : Int) {a : Nat} (h : a ≠ c.val) :
    memRead (memWrite m c v) a = memRead m a := by
  rw [memRead, memRead, cellAt_memWrite, if_neg h]

/-! ## The sum -/

/-- The largest sum is 8191 + 3 (R180). -/
theorem sumOf_range {a : Args} (h : a.wf = true) : 0 ≤ sumOf a ∧ sumOf a ≤ 8194 := by
  have h2 := a.arg2.isLt
  have h3 : a.arg3.toNat < 4 := of_decide_eq_true h
  simp only [sumOf, source1, source2]
  omega

/-- Settles O20: opcode 30 by the group's low six bits, then the one write of MEM and the advance. -/
theorem addStoreStoresTheSum : Obligations.AddStoreStoresTheSum := by
  refine ⟨fun g => ?encoding, fun a s => ?meaning⟩
  case encoding =>
    rw [← dec_opcode_groupNat, ← opcode_eq_30_iff, decodeGroup_opcode, ← BitVec.toNat_inj]
    rfl
  case meaning =>
    exact ⟨advance (storeCell (destCell a) (sumOf a) s), rfl, rfl, sameButMemPos_advance_storeCell _ _ s, rfl,
      memRead_memWrite_same s.mem (destCell a) (sumOf a),
      fun _ hc => memRead_memWrite_of_ne s.mem (sumOf a) hc,
      sumOf_range⟩

end Sys2Proof.Machine
end

section
/-! PROOF. SKIP_n (44_skip.md R190): an instruction whose opcode is neither of the two storing ones can only be the third
case of `exec_next_cases`, the advance alone. -/

namespace Sys2Proof.Machine

/-- `exec` on every opcode that does not store is the advance alone (R190). -/
theorem exec_of_opcode_ne {i : Instr} (s : State) (hadd : i.opcode ≠ 30#6) (hsub : i.opcode ≠ 1#6) :
    exec i s = .next (advance s) := by
  obtain ⟨t, ht⟩ := exec_completes i s
  obtain ⟨a, rfl, -⟩ | ⟨a, rfl, -⟩ | ⟨-, -, rfl⟩ := exec_next_cases ht
  · exact absurd rfl hadd
  · exact absurd rfl hsub
  · exact ht

/-- Settles O22: the opcode by the group's low six bits, then the advance, which leaves MEM and the frame as they are. -/
theorem skipOnlyAdvances : Obligations.SkipOnlyAdvances := by
  refine ⟨fun g => ?opcode, fun i s hadd hsub => ?meaning⟩
  case opcode => rw [decodeGroup_opcode, dec_opcode_groupNat]
  case meaning =>
    exact ⟨advance s, exec_of_opcode_ne s hadd hsub, advance_pos s, advance_mem s, fun _ => rfl,
      sameButMemPos_advance s⟩

end Sys2Proof.Machine
end

section
/-! PROOF. DEC and `encode` are inverse (30_encoding.md section 6; 41_decoder.md sections 3 and 4): the four fields of a
packed group are the fields packed, and packing the four fields of a group gives its bytes. -/

namespace Sys2Proof.Machine

/-! ## The fields of a packed group -/

theorem dec_packedBytes_opcode (a : BitVec 6) (b : BitVec 3) (c : BitVec 13) (d : BitVec 3) :
    (dec (packedBytes (pack a b c d))).opcode = a := by
  apply BitVec.eq_of_toNat_eq
  rw [dec_opcode_toNat, groupWord32_packedBytes, pack_toNat]
  omega

theorem dec_packedBytes_arg1 (a : BitVec 6) (b : BitVec 3) (c : BitVec 13) (d : BitVec 3) :
    (dec (packedBytes (pack a b c d))).arg1 = b := by
  apply BitVec.eq_of_toNat_eq
  rw [dec_arg1_toNat, groupWord32_packedBytes, pack_toNat]
  omega

theorem dec_packedBytes_arg2 (a : BitVec 6) (b : BitVec 3) (c : BitVec 13) (d : BitVec 3) :
    (dec (packedBytes (pack a b c d))).arg2 = c := by
  apply BitVec.eq_of_toNat_eq
  rw [dec_arg2_toNat, groupWord32_packedBytes, pack_toNat]
  omega

/-- Bit 24 of the packed word is not stored, so D keeps its two low bits (30_encoding.md R84). -/
theorem dec_packedBytes_arg3_toNat (a : BitVec 6) (b : BitVec 3) (c : BitVec 13) (d : BitVec 3) :
    (dec (packedBytes (pack a b c d))).arg3.toNat = d.toNat % 4 := by
  rw [dec_arg3_toNat, groupWord32_packedBytes, pack_toNat]
  omega

/-! ## A group is determined by its fields -/

theorem group_eq_of_toNat_eq {g h : Group} (h0 : g.byte0.toNat = h.byte0.toNat)
    (h1 : g.byte1.toNat = h.byte1.toNat) (h2 : g.byte2.toNat = h.byte2.toNat) : g = h := by
  cases g
  cases h
  rw [Group.mk.injEq]
  exact ⟨BitVec.eq_of_toNat_eq h0, BitVec.eq_of_toNat_eq h1, BitVec.eq_of_toNat_eq h2⟩

/-- No bit of a group is dropped by DEC: packing its fields again gives its bytes. -/
theorem packedBytes_pack_dec (g : Group) :
    packedBytes (pack (dec g).opcode (dec g).arg1 (dec g).arg2 (dec g).arg3) = g := by
  have hword := pack_toNat (dec g).opcode (dec g).arg1 (dec g).arg2 (dec g).arg3
  rw [dec_opcode_byte, dec_arg1_bytes, dec_arg2_bytes, dec_arg3_byte] at hword
  apply group_eq_of_toNat_eq
  · rw [packedBytes_byte0_toNat]
    omega
  · rw [packedBytes_byte1_toNat]
    omega
  · rw [packedBytes_byte2_toNat]
    omega

/-! ## Groups and instructions -/

theorem dec_arg3_lt (g : Group) : (dec g).arg3.toNat < 4 := by
  rw [dec_arg3_byte]
  omega

theorem args_wf_iff {a : Args} : a.wf = true ↔ a.arg3.toNat < 4 := decide_eq_true_iff

theorem decodeGroup_wf (g : Group) : (decodeGroup g).wf = true := by
  rw [Instr.wf, decodeGroup_args]
  exact args_wf_iff.mpr (dec_arg3_lt g)

theorem decodeGroup_encodeGroup {i : Instr} (h : i.wf = true) : decodeGroup (encodeGroup i) = i := by
  have harg3 : i.args.arg3.toNat < 4 := args_wf_iff.mp h
  apply Instr.ext_fields
  · rw [decodeGroup_opcode, encodeGroup, dec_packedBytes_opcode]
  · have h3 : (dec (encodeGroup i)).arg3 = i.args.arg3 := by
      apply BitVec.eq_of_toNat_eq
      rw [encodeGroup, dec_packedBytes_arg3_toNat, Nat.mod_eq_of_lt harg3]
    rw [decodeGroup_args, DecOut.args, h3, encodeGroup, dec_packedBytes_arg1, dec_packedBytes_arg2]

theorem encodeGroup_decodeGroup (g : Group) : encodeGroup (decodeGroup g) = g := by
  rw [encodeGroup, decodeGroup_opcode, decodeGroup_args]
  exact packedBytes_pack_dec g

/-! ## Byte lists -/

/-- A byte list decodes exactly as the group at its front (41_decoder.md R134). -/
theorem decode_eq_ok_iff {bytes rest : List Byte} {i : Instr} :
    decode bytes = .ok (i, rest) ↔ ∃ g : Group, bytes = g.toBytes ++ rest ∧ i = decodeGroup g := by
  constructor
  · intro h
    match bytes, h with
    | b0 :: b1 :: b2 :: tail, h =>
      obtain ⟨hi, hrest⟩ := Prod.mk.inj (Except.ok.inj h)
      exact ⟨⟨b0, b1, b2⟩, by rw [← hrest]; rfl, hi.symm⟩
    | [], h | [_], h | [_, _], h => cases h
  · rintro ⟨g, rfl, rfl⟩
    exact decode_toBytes_append g rest

/-- Settles O3: the encoded group decodes to the instruction, and what follows it is left. -/
theorem encodeThenDecodeGivesTheInstruction : Obligations.EncodeThenDecodeGivesTheInstruction := by
  intro i rest hwf
  rw [encode, decode_toBytes_append, decodeGroup_encodeGroup hwf]

/-- Settles O4: the bytes begin with the group decoded, which is well-formed and encodes to itself. -/
theorem decodeThenEncodeGivesTheBytes : Obligations.DecodeThenEncodeGivesTheBytes := by
  intro bytes rest i h
  obtain ⟨g, rfl, rfl⟩ := decode_eq_ok_iff.mp h
  exact ⟨decodeGroup_wf g, by rw [encode, encodeGroup_decodeGroup]⟩

/-- Settles O5: a list of at least 3 bytes is a group and a rest; a shorter one holds no group. -/
theorem onlyFragmentsHoldNoInstruction : Obligations.OnlyFragmentsHoldNoInstruction := by
  intro bytes
  constructor
  · rintro ⟨i, rest, h⟩
    obtain ⟨g, rfl, -⟩ := decode_eq_ok_iff.mp h
    simp [Group.toBytes]
  · intro h
    match bytes, h with
    | b0 :: b1 :: b2 :: rest, _ => exact ⟨_, rest, decode_toBytes_append ⟨b0, b1, b2⟩ rest⟩

/-- Settles O1: the five words, decoded. -/
theorem knownWordsDecode : Obligations.KnownWordsDecode := by
  refine ⟨?_, ?_, ?_, ?_, ?_⟩ <;> decide

end Sys2Proof.Machine
end

section
/-! PROOF. ENC's packing over the integers (40_encoder.md sections 2 and 3; 30_encoding.md section 4): the word is the sum
of the masked fields at their offsets, DEC gives them back, and two groups are equal when DEC's fields are. -/

namespace Sys2Proof.Machine

/-! ## The masked fields as integers -/

theorem maskD_toNat (d : Option Int) : ((maskD d).toNat : Int) = maskedD d := by
  cases d with
  | none => rfl
  | some d => exact maskTo_toNat 3 d

theorem maskedD_emod_four (d : Option Int) : maskedD d % 4 = storedD d := by
  cases d with
  | none => rfl
  | some d => exact Int.emod_emod_of_dvd d (by decide)

theorem maskedD_range (d : Option Int) : 0 ≤ maskedD d ∧ maskedD d < 8 := by
  rw [← maskD_toNat]
  omega

/-- The packed word of a field set as a number (R111). -/
theorem packFields_toNat (f : FieldSet) :
    ((packFields f).toNat : Int) = f.A % 64 + 64 * (f.B % 8) + 512 * (f.C % 8192) + 4194304 * maskedD f.D := by
  have ha := maskTo_toNat 6 f.A
  have hb := maskTo_toNat 3 f.B
  have hc := maskTo_toNat 13 f.C
  have hd := maskD_toNat f.D
  rw [packFields, pack_toNat]
  omega

/-- Settles O6: the word by `packFields_toNat`, and the word24 and each byte as its digits. -/
theorem encoderPacksMaskedFields : Obligations.EncoderPacksMaskedFields := by
  intro f
  have hword := packFields_toNat f
  have hd := maskedD_range f.D
  refine ⟨hword, ?word24, ?byte0, ?byte1, ?byte2, rfl, rfl⟩
  case word24 =>
    rw [recordOf, packedWord_toNat]
    omega
  case byte0 =>
    rw [recordOf, packedBytes_byte0_toNat]
    omega
  case byte1 =>
    rw [recordOf, packedBytes_byte1_toNat]
    omega
  case byte2 =>
    rw [recordOf, packedBytes_byte2_toNat]
    omega

/-- Settles O9: DEC's fields of a packed group are the fields packed, D without its third bit. -/
theorem decodingEncodedFieldsGivesMaskedFields : Obligations.DecodingEncodedFieldsGivesMaskedFields := by
  intro f
  simp only [recordOf, packFields, dec_packedBytes_opcode, dec_packedBytes_arg1, dec_packedBytes_arg2,
    dec_packedBytes_arg3_toNat]
  refine ⟨maskTo_toNat 6 f.A, maskTo_toNat 3 f.B, maskTo_toNat 13 f.C, ?d⟩
  case d => rw [Int.natCast_emod, maskD_toNat, Nat.cast_ofNat, maskedD_emod_four]

/-- Two groups with the same field values are the same. -/
theorem group_eq_of_dec_eq {g h : Group} (ho : (dec g).opcode.toNat = (dec h).opcode.toNat)
    (h1 : (dec g).arg1.toNat = (dec h).arg1.toNat) (h2 : (dec g).arg2.toNat = (dec h).arg2.toNat)
    (h3 : (dec g).arg3.toNat = (dec h).arg3.toNat) : g = h := by
  rw [← packedBytes_pack_dec g, ← packedBytes_pack_dec h, BitVec.eq_of_toNat_eq ho, BitVec.eq_of_toNat_eq h1,
    BitVec.eq_of_toNat_eq h2, BitVec.eq_of_toNat_eq h3]

/-- Settles O8: DEC's fields of the bytes are the masked fields, and they determine the bytes. -/
theorem sameBytesExactlyWhenFieldsAgree : Obligations.SameBytesExactlyWhenFieldsAgree := by
  intro f h
  obtain ⟨fa, fb, fc, fd⟩ := decodingEncodedFieldsGivesMaskedFields f
  obtain ⟨ha, hb, hc, hd⟩ := decodingEncodedFieldsGivesMaskedFields h
  constructor
  · intro heq
    rw [heq] at fa fb fc fd
    exact ⟨fa.symm.trans ha, fb.symm.trans hb, fc.symm.trans hc, fd.symm.trans hd⟩
  · rintro ⟨ea, eb, ec, ed⟩
    apply group_eq_of_dec_eq <;> omega

end Sys2Proof.Machine
end

section
/-! PROOF. What every instruction does and does not do to MEM, `pos` and the rest (20_memory.md sections 4 and 5;
43_store_arith.md; 70_reset_and_hazards.md section 3), read off its cells (`exec_cellAt`), its `pos` and its frame. -/

namespace Sys2Proof.Machine

theorem memRead_congr {m n : Memory} {a : Nat} (h : cellAt m a = cellAt n a) : memRead m a = memRead n a := by
  rw [memRead, memRead, h]

/-- A cell that is not the destination of a storing instruction keeps its value. -/
theorem exec_cellAt_of_not_stored {i : Instr} {s t : State} (h : exec i s = .next t) {c : Nat}
    (hc : ¬ (c = i.args.arg1.toNat ∧ (i.opcode = 30#6 ∨ i.opcode = 1#6))) : cellAt t.mem c = cellAt s.mem c := by
  rw [exec_cellAt h]
  by_cases hdest : c = i.args.arg1.toNat
  · rw [if_pos hdest, if_neg fun hadd => hc ⟨hdest, .inl hadd⟩, if_neg fun hsub => hc ⟨hdest, .inr hsub⟩]
  · rw [if_neg hdest]

/-- A cell other than `arg1` keeps its value. -/
theorem exec_cellAt_of_ne {i : Instr} {s t : State} (h : exec i s = .next t) {c : Nat}
    (hc : c ≠ i.args.arg1.toNat) : cellAt t.mem c = cellAt s.mem c :=
  exec_cellAt_of_not_stored h fun hstored => hc hstored.1

/-- `arg1` has 3 bits, so no instruction reaches a cell from 8 up (20_memory.md section 5). -/
theorem exec_cellAt_high {i : Instr} {s t : State} (h : exec i s = .next t) {c : Nat} (hc : 8 ≤ c) :
    cellAt t.mem c = cellAt s.mem c := by
  have hlt := i.args.arg1.isLt
  exact exec_cellAt_of_ne h (by omega)

/-- What a storing instruction leaves in its cell does not depend on the state. -/
theorem exec_cellAt_dest {i : Instr} {s t : State} (h : exec i s = .next t) (hi : i.opcode = 30#6 ∨ i.opcode = 1#6) :
    cellAt t.mem i.args.arg1.toNat =
      if i.opcode = 30#6 then (i.args.arg2.toNat : Int) + i.args.arg3.toNat
      else (i.args.arg2.toNat : Int) - i.args.arg3.toNat := by
  rw [exec_cellAt h, if_pos rfl]
  obtain hadd | hsub := hi
  · rw [if_pos hadd, if_pos hadd]
  · rw [if_pos hsub]

/-- States with the same `pos` and the same frame differ at most in MEM. -/
theorem eq_with_mem_of_same {t u : State} (hpos : u.pos = t.pos) (h : sameButMemPos t u) :
    u = { t with mem := u.mem } := by
  obtain ⟨hphase, hstart, hend, hbatch, hlog, hstream, hrequests, hresult⟩ := h
  cases t
  cases u
  simp_all only

/-- Settles O23: there is a next state, and its `pos` is 3 greater, by the lemmas over every instruction. -/
theorem everyInstructionCompletesAndAdvances : Obligations.EveryInstructionCompletesAndAdvances := by
  intro i s
  obtain ⟨t, ht⟩ := exec_completes i s
  exact ⟨t, ht, exec_pos ht⟩

/-- Settles O24: the cells from 8 up are none of the eight that `arg1` can name. -/
theorem noInstructionWritesHighCells : Obligations.NoInstructionWritesHighCells := by
  intro i s t ht c hc
  exact memRead_congr (exec_cellAt_high ht hc)

/-- Settles O25: `pos` and the frame agree in both next states; the cell `arg1` of a storing instruction takes a value
of the operands alone, and every other cell is left alone. -/
theorem noInstructionReadsMemory : Obligations.NoInstructionReadsMemory := by
  intro i s m n
  obtain ⟨t, ht⟩ := exec_completes i { s with mem := m }
  obtain ⟨u, hu⟩ := exec_completes i { s with mem := n }
  have hpos : u.pos = t.pos := (exec_pos hu).trans (exec_pos ht).symm
  refine ⟨t, u, ht, hu, eq_with_mem_of_same hpos ?frame, fun c => ?cells⟩
  case frame =>
    obtain ⟨t1, t2, t3, t4, t5, t6, t7, t8⟩ := exec_sameButMemPos ht
    obtain ⟨u1, u2, u3, u4, u5, u6, u7, u8⟩ := exec_sameButMemPos hu
    exact ⟨u1.trans t1.symm, u2.trans t2.symm, u3.trans t3.symm, u4.trans t4.symm, u5.trans t5.symm,
      u6.trans t6.symm, u7.trans t7.symm, u8.trans t8.symm⟩
  case cells =>
    by_cases hstores : c = i.args.arg1.toNat ∧ (i.opcode = 30#6 ∨ i.opcode = 1#6)
    · obtain ⟨rfl, hi⟩ := hstores
      exact .inl ((exec_cellAt_dest ht hi).trans (exec_cellAt_dest hu hi).symm)
    · exact .inr ⟨exec_cellAt_of_not_stored ht hstores, exec_cellAt_of_not_stored hu hstores⟩

/-- Settles O26: the shared cell holds what the later instruction stores, and every other cell what it held at first. -/
theorem laterStoreWins : Obligations.LaterStoreWins := by
  intro i j s t u v _ hj harg1 ht hu hv c
  apply memRead_congr
  by_cases hc : c = j.args.arg1.toNat
  · rw [hc, exec_cellAt_dest hu hj, exec_cellAt_dest hv hj]
  · rw [exec_cellAt_of_ne hu hc, exec_cellAt_of_ne hv hc]
    exact exec_cellAt_of_ne ht (by rwa [harg1])

/-! ## SUB_STORE (43_store_arith.md R181) -/

theorem dec_opcode_eq_iff (g : Group) (op : BitVec 6) : (dec g).opcode = op ↔ groupNat g % 64 = op.toNat := by
  rw [← dec_opcode_groupNat, BitVec.toNat_inj]

theorem opcode_eq_1_iff {i : Instr} : i.opcode = 1#6 ↔ ∃ a, i = .subStore a := by
  constructor
  · exact fun h => ⟨i.args, Instr.ext_fields h rfl⟩
  · rintro ⟨a, rfl⟩
    rfl

/-- The smallest difference is 0 - 3 (R181, decision D3). -/
theorem differenceOf_range {a : Args} (h : a.wf = true) : -3 ≤ differenceOf a ∧ differenceOf a ≤ 8191 := by
  have h2 := a.arg2.isLt
  have h3 := args_wf_iff.mp h
  simp only [differenceOf, source1, source2]
  omega

/-- Settles O21: opcode 1 by the group's low six bits, then the one write of MEM and the advance. -/
theorem subStoreStoresTheDifference : Obligations.SubStoreStoresTheDifference := by
  refine ⟨fun g => ?encoding, fun a s => ?meaning⟩
  case encoding =>
    have hop := dec_opcode_eq_iff g 1#6
    rw [← decodeGroup_opcode, opcode_eq_1_iff] at hop
    exact hop.symm
  case meaning =>
    exact ⟨advance (storeCell (destCell a) (differenceOf a) s), rfl, rfl, sameButMemPos_advance_storeCell _ _ s, rfl,
      memRead_memWrite_same s.mem (destCell a) (differenceOf a),
      fun _ hc => memRead_memWrite_of_ne s.mem (differenceOf a) hc,
      differenceOf_range⟩

end Sys2Proof.Machine
end

section
/-! PROOF. A step of a run (42_interpreter_fsm.md sections 3 and 4): the instruction of the group at `pos`, or, with
fewer than 3 bytes left, the end of the run. -/

namespace Sys2Proof.Machine

/-! ## The two steps of a run -/

theorem step_of_fragment {s : State} (hp : s.phase = .running) (h : s.stream.length < s.pos + 3) :
    step s = finishRun s := by
  simp only [step, hp, fetch_eq_none_iff.mpr h]

/-- The bytes at `pos`, when they decode, are the fetched group and its instruction (R154). -/
theorem step_of_decode {s : State} {i : Instr} {rest : List Byte} (hp : s.phase = .running)
    (h : decode (s.stream.drop s.pos) = .ok (i, rest)) : step s = exec i s := by
  obtain ⟨g, hg, rfl⟩ := decode_eq_ok_iff.mp h
  exact step_of_fetch hp (fetch_eq_some_iff.mpr ⟨rest, hg⟩)

/-- Settles O16: the decoded group is the fetched one. -/
theorem stepRunsTheDecodedInstruction : Obligations.StepRunsTheDecodedInstruction :=
  fun _ _ _ hp h => step_of_decode hp h

/-- Settles O18: a group is fetched exactly when three bytes stand at `pos`. -/
theorem groupConsumedExactlyWhenThreeBytesRemain : Obligations.GroupConsumedExactlyWhenThreeBytesRemain := by
  intro s hp
  refine ⟨⟨exists_fetch_of_three_le, ?fetched⟩, ?group, ?fragment⟩
  case fetched =>
    rintro ⟨g, hf⟩
    have hle := (streamRead_eq_some (streamRead_of_fetch hf)).1
    omega
  case group =>
    intro h
    obtain ⟨g, hf⟩ := exists_fetch_of_three_le h
    exact ⟨g, hf, step_of_fetch hp hf⟩
  case fragment => exact fun h => step_of_fragment hp (by omega)

/-! ## A placed word (log entry 6) -/

theorem placeAt_drop (stream : List Byte) (off : Nat) (g : Group) :
    (placeAt stream off g).drop off = g.toBytes ++ stream.drop (off + 3) := by
  have hlen : ((stream ++ List.replicate off 0#8).take off).length = off := by simp
  rw [placeAt, List.append_assoc, List.drop_append, hlen, Nat.sub_self, List.drop_zero,
    List.drop_of_length_le hlen.le, List.nil_append]

theorem decodeTableWord_eq (nbits w : Nat) : decodeTableWord nbits w = some (decodeGroup (tableGroup nbits w)) := rfl

/-- Settles O17: the placed group stands at `pos` and decodes to the word's instruction. -/
theorem placedWordRunsNext : Obligations.PlacedWordRunsNext := by
  intro s w i h
  rw [decodeTableWord_eq] at h
  obtain rfl := Option.some.inj h
  refine step_of_decode (rest := s.stream.drop (s.pos + 3)) rfl ?_
  rw [State.withFetchWord, placeNextGroup_stream, placeNextGroup_pos, placeAt_drop, decode_toBytes_append]

/-! ## What a step of a run leaves unchanged -/

/-- Settles O27: neither an instruction nor the end of the run writes these fields. -/
theorem runningStepLeavesStreamEncoderAndHost : Obligations.RunningStepLeavesStreamEncoderAndHost := by
  intro s t hp h
  obtain ⟨-, g, -, hexec⟩ | ⟨-, -, hend⟩ | ⟨hne, -⟩ := step_next_cases h
  · obtain ⟨-, hstart, hend, hbatch, hlog, hstream, hrequests, -⟩ := exec_sameButMemPos hexec
    exact ⟨hstream, hstart, hend, ⟨hbatch, hlog⟩, hrequests⟩
  · obtain ⟨pairs, rfl⟩ := finishRun_next hend
    exact ⟨rfl, rfl, rfl, ⟨rfl, rfl⟩, rfl⟩
  · exact absurd hp hne

/-! ## The result slice (R150, R158) -/

theorem slicePairs_length (m : Memory) (start stop : Nat) : (slicePairs m start stop).length = stop - start := by
  rw [slicePairs, List.length_map, List.length_range']

theorem slicePairs_getElem? (m : Memory) {start stop k : Nat} (h : k < stop - start) :
    (slicePairs m start stop)[k]? = some (start + k, cellAt m (start + k)) := by
  rw [slicePairs, List.getElem?_map, List.getElem?_range' h, Option.map_some, Nat.one_mul]

/-- Settles O28: the end of the run with a legal range, and its slice pair by pair. -/
theorem endOfStreamReturnsTheSlice : Obligations.EndOfStreamReturnsTheSlice := by
  intro s hp hleft hle hmax
  have hstep := (step_of_fragment hp (by omega)).trans (finishRun_of_bounded ⟨hle, hmax⟩)
  refine ⟨_, slicePairs s.mem s.rangeStart s.rangeEnd, hstep, rfl, rfl, slicePairs_length _ _ _, fun k hk => ?pairs,
    rfl, rfl, rfl, rfl, rfl, ⟨rfl, rfl⟩, rfl⟩
  case pairs =>
    exact ⟨cellAt s.mem (s.rangeStart + k), memRead_of_lt _ (by omega), slicePairs_getElem? _ hk⟩

end Sys2Proof.Machine
end

section
/-! PROOF. A step outside a run (10_state.md section 4; 70_reset_and_hazards.md section 5): the host's oldest request,
served from IDLE with the run before it discarded, or no transition when there is none. -/

namespace Sys2Proof.Machine

/-! ## The step outside a run -/

/-- A request is served alike from IDLE, DONE and REJECTED (log entry 8). -/
theorem step_of_request {s : State} {r : Request} {rest : List Request} (hp : s.phase ≠ .running)
    (hr : s.requests = r :: rest) : step s = .next (serveRequest r (discardRun { s with requests := rest })) := by
  cases hphase : s.phase with
  | running => exact absurd hphase hp
  | idle => simp only [step, hphase, serve, hr]
  | done => simp only [step, hphase, serve, hr]
  | rejected => simp only [step, hphase, serve, hr]

/-- The state an accepted launch leads to (42_interpreter_fsm.md R152). -/
def launchedRun (stream : List Byte) (start stop : Nat) (s : State) : State :=
  { s with
    mem := zeroedMemory, pos := 0, phase := .running, rangeStart := start, rangeEnd := stop, stream := stream,
    result := none }

/-- The state a refused launch leads to (60_exceptions.md R200, R201). -/
def refusedRun (start stop : Nat) (s : State) : State :=
  { s with
    mem := zeroedMemory, pos := 0, phase := .rejected, rangeStart := start, rangeEnd := stop, stream := [],
    result := some (.rangeFault start stop) }

theorem step_of_legal_run {s : State} {stream : List Byte} {start stop : Nat} {rest : List Request}
    (hp : s.phase ≠ .running) (hr : s.requests = .run stream start stop :: rest) (h : start ≤ stop ∧ stop ≤ 256) :
    step s = .next (launchedRun stream start stop { s with requests := rest }) := by
  rw [step_of_request hp hr, serveRequest, launch_of_legal h]
  rfl

theorem step_of_illegal_run {s : State} {stream : List Byte} {start stop : Nat} {rest : List Request}
    (hp : s.phase ≠ .running) (hr : s.requests = .run stream start stop :: rest) (h : ¬ (start ≤ stop ∧ stop ≤ 256)) :
    step s = .next (refusedRun start stop { s with requests := rest }) := by
  rw [step_of_request hp hr, serveRequest, launch_of_illegal h]
  rfl

theorem step_of_unasked_idle {s : State} (hp : s.phase = .idle) (hr : s.requests = []) :
    step s = .refused .noRequest := by
  simp only [step, hp, serve, hr]

theorem step_of_unasked_done {s : State} (hp : s.phase = .done) (hr : s.requests = []) :
    step s = .refused .streamExhausted := by
  simp only [step, hp, serve, hr]

theorem step_of_unasked_rejected {s : State} (hp : s.phase = .rejected) (hr : s.requests = []) :
    step s = .refused (.rangeFault s.rangeStart s.rangeEnd) := by
  simp only [step, hp, serve, hr]

/-- Settles O15: without a request each phase outside a run refuses under its own name. -/
theorem nothingHappensUnasked : Obligations.NothingHappensUnasked := by
  intro s hr
  exact ⟨fun hp => step_of_unasked_idle hp hr, fun hp => step_of_unasked_done hp hr,
    fun hp => step_of_unasked_rejected hp hr⟩

theorem step_refused_of_unasked {s : State} (hp : s.phase ≠ .running) (hr : s.requests = []) :
    ∃ r, step s = .refused r := by
  cases hphase : s.phase with
  | running => exact absurd hphase hp
  | idle => exact ⟨_, step_of_unasked_idle hphase hr⟩
  | done => exact ⟨_, step_of_unasked_done hphase hr⟩
  | rejected => exact ⟨_, step_of_unasked_rejected hphase hr⟩

/-! ## Encode, launch and taking -/

/-- Settles O10: the request served is `encodeCall`, which writes ENC alone. -/
theorem encodeRequestAppendsRecordAndLog : Obligations.EncodeRequestAppendsRecordAndLog := by
  intro s f rest hp hr
  exact ⟨_, step_of_request hp hr, rfl, rfl, rfl, rfl, rfl, rfl, rfl, rfl, rfl, rfl⟩

/-- Settles O12: each field of the reset state; nothing is listed in MEM, so every cell reads 0. -/
theorem resetLeavesZeroedMemoryAndIdle : Obligations.ResetLeavesZeroedMemoryAndIdle :=
  ⟨fun _ ha => memRead_of_lt _ ha, rfl, rfl, rfl, rfl, rfl, rfl, rfl, rfl, rfl⟩

/-- Settles O13: the state of the legal launch, field by field. -/
theorem legalLaunchStartsAtZeroOnZeroedMemory : Obligations.LegalLaunchStartsAtZeroOnZeroedMemory := by
  intro s stream start stop rest hp hr hle hmax
  exact ⟨_, step_of_legal_run hp hr ⟨hle, hmax⟩, rfl, rfl, fun _ ha => memRead_of_lt _ ha, rfl, rfl, rfl, rfl, rfl,
    rfl, rfl⟩

/-- Settles O14: the state of the refused launch, field by field, and its step in REJECTED with nothing asked for. -/
theorem illegalLaunchRaisesRangeFault : Obligations.IllegalLaunchRaisesRangeFault := by
  intro s stream start stop rest hp hr hbad
  exact ⟨_, step_of_illegal_run hp hr (by omega), rfl, rfl, rfl, rfl, fun _ => rfl, rfl, ⟨rfl, rfl⟩,
    fun hrest => step_of_unasked_rejected rfl hrest⟩

/-! ## The phase and MEM after a request -/

theorem launch_mem (stream : List Byte) (start stop : Nat) (s : State) :
    (launch stream start stop s).mem = zeroedMemory := by
  rw [launch]
  split <;> rfl

theorem launch_requests (stream : List Byte) (start stop : Nat) (s : State) :
    (launch stream start stop s).requests = s.requests := by
  rw [launch]
  split <;> rfl

theorem launch_phase (stream : List Byte) (start stop : Nat) (s : State) :
    (launch stream start stop s).phase = requestedPhase (.run stream start stop) := by
  by_cases h : start ≤ stop ∧ stop ≤ 256
  · rw [launch_of_legal h, requestedPhase, if_pos h]
  · rw [launch_of_illegal h, requestedPhase, if_neg h]

theorem serveRequest_phase (r : Request) (s : State) : (serveRequest r (discardRun s)).phase = requestedPhase r := by
  cases r with
  | beginAssembly | encode _ | takeResult => rfl
  | run stream start stop => exact launch_phase stream start stop _

/-- Whatever the request, the memory of the run before it is gone (42_interpreter_fsm.md R158). -/
theorem serveRequest_mem (r : Request) (s : State) : (serveRequest r (discardRun s)).mem = zeroedMemory := by
  cases r with
  | beginAssembly | encode _ | takeResult => rfl
  | run stream start stop => exact launch_mem stream start stop _

theorem serveRequest_requests (r : Request) (s : State) : (serveRequest r (discardRun s)).requests = s.requests := by
  cases r with
  | beginAssembly | encode _ | takeResult => rfl
  | run stream start stop => exact launch_requests stream start stop _

theorem requestedPhase_ne_done (r : Request) : requestedPhase r ≠ .done := by
  cases r with
  | beginAssembly | encode _ | takeResult => exact Phase.noConfusion
  | run stream start stop =>
    rw [requestedPhase]
    split <;> exact Phase.noConfusion

theorem requestedPhase_of_ne_run {r : Request} (h : ∀ stream start stop, r ≠ .run stream start stop) :
    requestedPhase r = .idle := by
  cases r with
  | beginAssembly | encode _ | takeResult => rfl
  | run stream start stop => exact absurd rfl (h stream start stop)

/-- Only a launch writes the answer held (log entry 5). -/
theorem serveRequest_result_of_ne_run {r : Request} (h : ∀ stream start stop, r ≠ .run stream start stop) (s : State) :
    (serveRequest r (discardRun s)).result = s.result := by
  cases r with
  | beginAssembly | encode _ | takeResult => rfl
  | run stream start stop => exact absurd rfl (h stream start stop)

theorem cell?_of_idle {s : State} (h : s.phase = .idle) (a : Nat) : s.cell? a = none := by
  simp only [State.cell?, h]

/-- A zeroed memory gives a claim no value but 0. -/
theorem cell?_of_zeroed {s : State} (h : s.mem = zeroedMemory) (a : Nat) : s.cell? a = none ∨ s.cell? a = some 0 := by
  have hread : memRead s.mem a = none ∨ memRead s.mem a = some 0 := by
    rw [h]
    obtain hlt | hge := Nat.lt_or_ge a 256
    · exact .inr (memRead_of_lt _ hlt)
    · exact .inl (memRead_of_ge _ hge)
  rw [State.cell?]
  split
  · exact hread
  · exact hread
  · exact .inl rfl
  · exact .inl rfl

/-- Settles O40: the phase, MEM and the answer after any request, and after `takeResult` the whole of INT and ENC. -/
theorem takenResultDiscardsMemory : Obligations.TakenResultDiscardsMemory := by
  intro s r rest hp hr
  refine ⟨_, step_of_request hp hr, serveRequest_requests _ _, ?phase, cell?_of_zeroed (serveRequest_mem _ _),
    fun hne => ?noLaunch, fun htake => ?taken⟩
  case phase =>
    rw [serveRequest_phase]
    exact requestedPhase_ne_done r
  case noLaunch =>
    have hidle := (serveRequest_phase r { s with requests := rest }).trans (requestedPhase_of_ne_run hne)
    exact ⟨hidle, cell?_of_idle hidle, serveRequest_mem _ _, serveRequest_result_of_ne_run hne _⟩
  case taken =>
    subst htake
    exact ⟨⟨rfl, rfl, rfl, rfl, rfl, rfl, rfl⟩, rfl, rfl⟩

theorem phaseMoves_of_running {s t : State} (hp : s.phase = .running) :
    phaseMoves s t ↔ t.phase = if s.pos + 3 ≤ s.stream.length then .running else .done := by
  simp only [phaseMoves, hp]

theorem phaseMoves_of_request {s t : State} {r : Request} {rest : List Request} (hp : s.phase ≠ .running)
    (hr : s.requests = r :: rest) (ht : t.phase = requestedPhase r) : phaseMoves s t := by
  rw [phaseMoves]
  split
  · next hrun => exact absurd hrun hp
  · exact ⟨r, rest, hr, ht⟩
  · exact ⟨r, rest, hr, ht⟩
  · exact ⟨r, rest, hr, ht⟩

/-- Settles O29: an instruction keeps the phase, the end of the run sets DONE, a request sets its own. -/
theorem requestOrStreamDecidesThePhase : Obligations.RequestOrStreamDecidesThePhase := by
  intro s t h
  obtain ⟨hp, g, hf, hexec⟩ | ⟨hp, hshort, hend⟩ | ⟨hp, r, rest, hr, rfl⟩ := step_next_cases h
  · have hle := (streamRead_eq_some (streamRead_of_fetch hf)).1
    obtain ⟨hphase, -⟩ := exec_sameButMemPos hexec
    rw [phaseMoves_of_running hp, if_pos hle, hphase, hp]
  · obtain ⟨pairs, rfl⟩ := finishRun_next hend
    rw [phaseMoves_of_running hp, if_neg (Nat.not_le.mpr hshort)]
  · exact phaseMoves_of_request hp hr (serveRequest_phase r _)

end Sys2Proof.Machine
end

section
/-! PROOF. An assembly (40_encoder.md section 6): `beginAssembly` empties ENC, and each `encode` served appends one record
and one log entry to a state that is already as the taking of an answer leaves it. -/

namespace Sys2Proof.Machine

/-- The `Encode` calls of an assembly, together. -/
theorem foldl_encodeCall (lines : List FieldSet) (s : State) :
    lines.foldl (fun t f => encodeCall f t) s =
      { s with batch := s.batch ++ lines.map recordOf, log := s.log ++ lines.map logEntryOf } := by
  induction lines generalizing s with
  | nil => simp
  | cons f lines ih =>
    rw [List.foldl_cons, ih]
    simp [encodeCall]

/-- ENC after `Assemble` (R120), and nothing else changed. -/
theorem assemble_eq (lines : List FieldSet) (s : State) :
    assemble lines s = { s with batch := lines.map recordOf, log := lines.map logEntryOf } := by
  rw [assemble, foldl_encodeCall]
  rfl

/-- An `encode` request where there is no run to discard is the call alone. -/
theorem step_of_encode_request {s : State} {f : FieldSet} {rest : List Request} (hidle : discardRun s = s)
    (hr : s.requests = .encode f :: rest) : step s = .next (encodeCall f { s with requests := rest }) := by
  have hp : s.phase ≠ .running := by
    rw [← hidle, discardRun_phase]
    exact Phase.noConfusion
  have hdiscard : discardRun { s with requests := rest } = { s with requests := rest } :=
    congrArg (fun u : State => { u with requests := rest }) hidle
  rw [step_of_request hp hr, hdiscard, serveRequest]

/-- From a state with no run to discard, the queued `encode` requests are the calls, in order. -/
theorem runSteps_encodes (lines : List FieldSet) (rest : List Request) (s : State) (hidle : discardRun s = s)
    (hr : s.requests = lines.map Request.encode ++ rest) :
    runSteps lines.length s = .next (lines.foldl (fun t f => encodeCall f t) { s with requests := rest }) := by
  induction lines generalizing s with
  | nil =>
    rw [List.map_nil, List.nil_append] at hr
    rw [← hr]
    rfl
  | cons f lines ih =>
    have hstep := step_of_encode_request hidle hr
    rw [List.length_cons, runSteps_succ_of_next hstep, ih _ ?idle rfl]
    case idle => exact congrArg (fun u => encodeCall f { u with requests := lines.map Request.encode ++ rest }) hidle
    rfl

/-- An assembly of `k` lines is `k + 1` steps, and is `assemble` on the state with the run before it discarded. -/
theorem runSteps_assembly {s : State} {lines : List FieldSet} {rest : List Request} (hp : s.phase ≠ .running)
    (hr : s.requests = .beginAssembly :: (lines.map Request.encode ++ rest)) :
    runSteps (lines.length + 1) s = .next (assemble lines (discardRun { s with requests := rest })) := by
  rw [runSteps_succ_of_next (step_of_request hp hr)]
  exact runSteps_encodes lines rest _ rfl rfl

/-- The bytes of the lines of an assembly, in order (R120). -/
def lineBytes (lines : List FieldSet) : List Byte := lines.flatMap fun f => (packedBytes (packFields f)).toBytes

theorem lineBytes_cons (f : FieldSet) (lines : List FieldSet) :
    lineBytes (f :: lines) = (packedBytes (packFields f)).toBytes ++ lineBytes lines :=
  List.flatMap_cons

theorem lineBytes_length (lines : List FieldSet) : (lineBytes lines).length = 3 * lines.length := by
  induction lines with
  | nil => rfl
  | cons f lines ih =>
    rw [lineBytes_cons, List.length_append, ih, List.length_cons, Nat.mul_succ, Nat.add_comm]
    rfl

/-- The binary output of records that are those of the lines is the bytes of the lines. -/
theorem binaryOutput_of_batch {s : State} {lines : List FieldSet} (h : s.batch = lines.map recordOf) :
    binaryOutput s = lineBytes lines := by
  rw [binaryOutput, h, List.flatMap_map]
  rfl

/-- Settles O11: the `k + 1` steps are `assemble`, whose records and log entries are those of the lines. -/
theorem assemblyGivesOneRecordPerLine : Obligations.AssemblyGivesOneRecordPerLine := by
  intro s lines rest hp hr
  have hrun := runSteps_assembly hp hr
  rw [assemble_eq] at hrun
  have hout := binaryOutput_of_batch (s := { discardRun { s with requests := rest } with
    batch := lines.map recordOf, log := lines.map logEntryOf }) rfl
  refine ⟨_, hrun, rfl, rfl, hout, ?length, rfl, rfl, rfl, rfl, rfl, rfl, rfl, rfl⟩
  case length => rw [hout, lineBytes_length]

end Sys2Proof.Machine
end

section
/-! PROOF. The instruction of a group is the source's formula on the group's number (42_interpreter_fsm.md R154;
`groupEffect`), so one step of a run is `groupEffect` on MEM and the advance. -/

namespace Sys2Proof.Machine

/-! ## `groupEffect` by DEC's fields -/

theorem dec_arg1_groupNat (g : Group) : (dec g).arg1.toNat = groupNat g / 64 % 8 := by
  rw [dec_arg1_toNat, groupWord32_toNat, groupNat]

theorem dec_arg2_groupNat (g : Group) : (dec g).arg2.toNat = groupNat g / 512 % 8192 := by
  rw [dec_arg2_toNat, groupWord32_toNat, groupNat]

theorem dec_arg3_groupNat (g : Group) : (dec g).arg3.toNat = groupNat g / 4194304 % 8 := by
  rw [dec_arg3_toNat, groupWord32_toNat, groupNat]

/-- The source's dispatch on numbers is the dispatch on DEC's fields. -/
theorem groupEffect_eq (g : Group) (m : Memory) :
    groupEffect g m =
      if (dec g).opcode = 30#6 then memWrite m (destCell (dec g).args) (sumOf (dec g).args)
      else if (dec g).opcode = 1#6 then memWrite m (destCell (dec g).args) (differenceOf (dec g).args)
      else m := by
  simp only [groupEffect, dec_opcode_eq_iff, destCell, sumOf, differenceOf, source1, source2, DecOut.args,
    dec_arg1_groupNat, dec_arg2_groupNat, dec_arg3_groupNat]
  rfl

/-- One group of a run: `groupEffect` on MEM, `pos <- pos + 3`, and nothing else. -/
theorem exec_decodeGroup (g : Group) (s : State) :
    exec (decodeGroup g) s = .next { s with mem := groupEffect g s.mem, pos := s.pos + 3 } := by
  obtain ⟨t, ht⟩ := exec_completes (decodeGroup g) s
  have hop := decodeGroup_opcode g
  have hargs := decodeGroup_args g
  rw [ht, groupEffect_eq, ← hop, ← hargs]
  obtain ⟨a, hi, rfl⟩ | ⟨a, hi, rfl⟩ | ⟨hadd, hsub, rfl⟩ := exec_next_cases ht
  · rw [hi]
    rfl
  · rw [hi]
    rfl
  · rw [if_neg hadd, if_neg hsub]
    rfl

/-! ## The cells after a group -/

theorem storesTo_iff {c : Nat} {g : Group} :
    storesTo c g = true ↔ ((dec g).opcode = 30#6 ∨ (dec g).opcode = 1#6) ∧ (dec g).arg1.toNat = c := by
  simp [storesTo]

/-- A cell after a group holds what the group stores to it, or what it held (R161). -/
theorem cellAt_groupEffect (g : Group) (m : Memory) (c : Nat) :
    cellAt (groupEffect g m) c = if storesTo c g then storedValue g else cellAt m c := by
  have hexec := exec_decodeGroup g { State.reset with mem := m }
  by_cases hstores : storesTo c g = true
  · rw [if_pos hstores]
    obtain ⟨hop, rfl⟩ := storesTo_iff.mp hstores
    have hdest := exec_cellAt_dest hexec (by rwa [decodeGroup_opcode])
    rw [decodeGroup_opcode, decodeGroup_args] at hdest
    exact hdest
  · rw [if_neg hstores]
    refine exec_cellAt_of_not_stored hexec fun hstored => hstores (storesTo_iff.mpr ?_)
    rw [decodeGroup_opcode, decodeGroup_args] at hstored
    exact ⟨hstored.2, hstored.1.symm⟩

theorem storesTo_high {c : Nat} (hc : 8 ≤ c) (g : Group) : ¬ storesTo c g = true := by
  have hlt := (dec g).arg1.isLt
  rw [storesTo_iff]
  omega

theorem storedValue_range (g : Group) : -3 ≤ storedValue g ∧ storedValue g ≤ 8194 := by
  have h2 := (dec g).arg2.isLt
  have h3 := dec_arg3_lt g
  rw [storedValue]
  split <;> omega

theorem groupEffect_wf {m : Memory} (h : Memory.wf m) (g : Group) : Memory.wf (groupEffect g m) := by
  rw [groupEffect_eq]
  split
  · exact memWrite_wf h _ _
  · split
    · exact memWrite_wf h _ _
    · exact h

end Sys2Proof.Machine
end

section
/-! PROOF. The invariant (10_state.md section 11). A step is one of three: a group of a run (`groupEffect` on MEM), the end
of a run, or a request served; each keeps `Inv`, and `Inv` gives the legal range with which the end of a run completes. -/

namespace Sys2Proof.Machine

/-! ## The canonical form alone -/

/-- Settles O34: a group writes MEM by `memWrite`, the end of a run not at all, and a request leaves it empty. -/
theorem everyStepKeepsMemoryCanonical : Obligations.EveryStepKeepsMemoryCanonical := by
  intro s t hwf h
  obtain ⟨-, g, -, hexec⟩ | ⟨-, -, hend⟩ | ⟨-, r, rest, -, rfl⟩ := step_next_cases h
  · rw [exec_decodeGroup] at hexec
    obtain rfl := Host.Outcome.next.inj hexec
    exact groupEffect_wf hwf g
  · obtain ⟨pairs, rfl⟩ := finishRun_next hend
    exact hwf
  · rw [serveRequest_mem]
    exact Memory.wf_nil

/-! ## Groups and ends of runs -/

/-- The bytes up to the next group's end are those up to `pos` and the group's. -/
theorem take_pos_add_three {s : State} {g : Group} (h : fetch s = some g) :
    s.stream.take (s.pos + 3) = s.stream.take s.pos ++ g.toBytes := by
  obtain ⟨rest, hd⟩ := fetch_eq_some_iff.mp h
  rw [List.take_add, hd]
  rfl

/-- MEM as the fold of the groups before `pos` takes in the group at `pos`. -/
theorem streamEffect_take_add_three {s : State} {g : Group} (h : fetch s = some g) (hpos : s.pos % 3 = 0) (m : Memory) :
    streamEffect (s.stream.take (s.pos + 3)) m = groupEffect g (streamEffect (s.stream.take s.pos) m) := by
  have hle := (streamRead_eq_some (streamRead_of_fetch h)).1
  rw [take_pos_add_three h]
  refine streamEffect_append_group _ ?_ g m
  rw [List.length_take_of_le (by omega), hpos]

theorem RunInv.group {s : State} {g : Group} (h : RunInv s) (hf : fetch s = some g) :
    RunInv { s with mem := groupEffect g s.mem, pos := s.pos + 3 } := by
  obtain ⟨hpos, hbound, hrange, hmem⟩ := h
  have hle := (streamRead_eq_some (streamRead_of_fetch hf)).1
  refine ⟨?_, ?_, hrange, ?_⟩
  · show (s.pos + 3) % 3 = 0
    omega
  · show s.pos + 3 ≤ 3 * (s.stream.length / 3)
    omega
  · show groupEffect g s.mem = streamEffect (s.stream.take (s.pos + 3)) zeroedMemory
    rw [streamEffect_take_add_three hf hpos, ← hmem]

theorem Inv.group {s : State} {g : Group} (h : Inv s) (hp : s.phase = .running) (hf : fetch s = some g) :
    Inv { s with mem := groupEffect g s.mem, pos := s.pos + 3 } where
  mem_canonical := groupEffect_wf h.mem_canonical g
  high_cells_zero c hc := by
    show cellAt (groupEffect g s.mem) c = 0
    rw [cellAt_groupEffect, if_neg (storesTo_high hc g), h.high_cells_zero c hc]
  cells_bounded c := by
    show -3 ≤ cellAt (groupEffect g s.mem) c ∧ cellAt (groupEffect g s.mem) c ≤ 8194
    rw [cellAt_groupEffect]
    split
    · exact storedValue_range g
    · exact h.cells_bounded c
  accepted _ := (h.accepted (.inl hp)).group hf
  ended hdone := by cases hp.symm.trans hdone
  refused hrej := by cases hp.symm.trans hrej
  no_memory hno := by rcases hno with hno | hno <;> cases hp.symm.trans hno
  no_result_in_run := h.no_result_in_run
  records := h.records
  log_matches := h.log_matches

/-- In a run with no group left `pos` is at the end of the complete groups (R156). -/
theorem RunInv.pos_of_fragment {s : State} (h : RunInv s) (hshort : s.stream.length < s.pos + 3) :
    s.pos = 3 * (s.stream.length / 3) := by
  have hpos := h.pos_multiple
  have hbound := h.pos_bound
  omega

theorem Inv.finish {s : State} (h : Inv s) (hp : s.phase = .running) (hshort : s.stream.length < s.pos + 3) :
    Inv { s with phase := .done, result := some (.cells (slicePairs s.mem s.rangeStart s.rangeEnd)) } where
  mem_canonical := h.mem_canonical
  high_cells_zero := h.high_cells_zero
  cells_bounded := h.cells_bounded
  accepted _ :=
    have hrun := h.accepted (.inl hp)
    ⟨hrun.pos_multiple, hrun.pos_bound, hrun.range_legal, hrun.mem_of_stream⟩
  ended _ := ⟨(h.accepted (.inl hp)).pos_of_fragment hshort, rfl⟩
  refused hrej := by cases hrej
  no_memory hno := by rcases hno with hno | hno <;> cases hno
  no_result_in_run hrun := by cases hrun
  records := h.records
  log_matches := h.log_matches

/-! ## Requests -/

/-- ENC's two lists hold what the field sets of `batch` give (40_encoder.md R118, R119). -/
structure EncoderInv (batch : List InstrRecord) (log : List LogEntry) : Prop where
  records : ∀ r ∈ batch, r = recordOf r.fields
  log_matches : log = batch.map fun r => logEntryOf r.fields

theorem Inv.encoder {s : State} (h : Inv s) : EncoderInv s.batch s.log := ⟨h.records, h.log_matches⟩

theorem EncoderInv.nil : EncoderInv [] [] := ⟨fun _ h => (List.not_mem_nil h).elim, rfl⟩

theorem EncoderInv.append {batch : List InstrRecord} {log : List LogEntry} (h : EncoderInv batch log) (f : FieldSet) :
    EncoderInv (batch ++ [recordOf f]) (log ++ [logEntryOf f]) where
  records r hr := by
    obtain hr | hr := List.mem_append.mp hr
    · exact h.records r hr
    · rw [List.mem_singleton.mp hr]
      rfl
  log_matches := by
    rw [List.map_append, ← h.log_matches]
    rfl

/-- With MEM zeroed and no result reported, the invariant is that of a run at its start, or of a refused launch. -/
theorem inv_of_zeroed {s : State} (hmem : s.mem = zeroedMemory) (hdone : s.phase ≠ .done)
    (hrun : s.phase = .running →
      s.pos = 0 ∧ (s.rangeStart ≤ s.rangeEnd ∧ s.rangeEnd ≤ 256) ∧ s.result = none)
    (hrej : s.phase = .rejected →
      ¬ (s.rangeStart ≤ s.rangeEnd ∧ s.rangeEnd ≤ 256) ∧ s.result = some (.rangeFault s.rangeStart s.rangeEnd))
    (henc : EncoderInv s.batch s.log) : Inv s where
  mem_canonical := by
    rw [hmem]
    exact Memory.wf_nil
  high_cells_zero c _ := by
    rw [hmem]
    exact cellAt_nil c
  cells_bounded c := by
    rw [hmem, zeroedMemory, cellAt_nil]
    decide
  accepted hacc := by
    obtain ⟨hpos, hrange, -⟩ := hrun (hacc.resolve_right hdone)
    refine ⟨by rw [hpos], by omega, hrange, ?_⟩
    rw [hmem, hpos]
    rfl
  ended hd := absurd hd hdone
  refused := hrej
  no_memory _ := hmem
  no_result_in_run hr := by
    obtain ⟨-, -, hresult⟩ := hrun hr
    exact hresult
  records := henc.records
  log_matches := henc.log_matches

theorem inv_of_idle {s : State} (hmem : s.mem = zeroedMemory) (hp : s.phase = .idle)
    (henc : EncoderInv s.batch s.log) : Inv s := by
  refine inv_of_zeroed hmem ?_ (fun h => ?_) (fun h => ?_) henc
  · rw [hp]
    exact Phase.noConfusion
  · cases hp.symm.trans h
  · cases hp.symm.trans h

theorem inv_launch (stream : List Byte) (start stop : Nat) {s : State} (henc : EncoderInv s.batch s.log) :
    Inv (launch stream start stop s) := by
  by_cases h : start ≤ stop ∧ stop ≤ 256
  · rw [launch_of_legal h]
    exact inv_of_zeroed rfl Phase.noConfusion (fun _ => ⟨rfl, h, rfl⟩) (fun hrej => by cases hrej) henc
  · rw [launch_of_illegal h]
    exact inv_of_zeroed rfl Phase.noConfusion (fun hrun => by cases hrun) (fun _ => ⟨h, rfl⟩) henc

/-- Every request served leaves the invariant, by that of ENC alone. -/
theorem inv_serveRequest (r : Request) {s : State} (henc : EncoderInv s.batch s.log) :
    Inv (serveRequest r (discardRun s)) := by
  cases r with
  | beginAssembly => exact inv_of_idle rfl rfl EncoderInv.nil
  | encode f => exact inv_of_idle rfl rfl (henc.append f)
  | takeResult => exact inv_of_idle rfl rfl henc
  | run stream start stop => exact inv_launch stream start stop henc

/-- Settles O31: the three steps of `step_next_cases`, each by its lemma. -/
theorem everyStepKeepsInvariant : Obligations.EveryStepKeepsInvariant := by
  intro s t hinv h
  obtain ⟨hp, g, hf, hexec⟩ | ⟨hp, hshort, hend⟩ | ⟨-, r, rest, -, rfl⟩ := step_next_cases h
  · rw [exec_decodeGroup] at hexec
    obtain rfl := Host.Outcome.next.inj hexec
    exact hinv.group hp hf
  · rw [finishRun_of_bounded (hinv.accepted (.inl hp)).range_legal] at hend
    obtain rfl := Host.Outcome.next.inj hend
    exact hinv.finish hp hshort
  · exact inv_serveRequest r hinv.encoder

/-- Settles O30: IDLE with nothing listed in MEM and ENC empty. -/
theorem resetMeetsInvariant : Obligations.ResetMeetsInvariant := inv_of_idle rfl rfl EncoderInv.nil

/-! ## When a step completes -/

/-- A step of a run completes, since its range is legal. -/
theorem step_completes_of_running {s : State} (hinv : Inv s) (hp : s.phase = .running) : ∃ t, step s = .next t := by
  cases hf : fetch s with
  | some g => exact ⟨_, (step_of_fetch hp hf).trans (exec_decodeGroup g s)⟩
  | none =>
    have hrange := (hinv.accepted (.inl hp)).range_legal
    exact ⟨_, (step_of_fragment hp (fetch_eq_none_iff.mp hf)).trans (finishRun_of_bounded hrange)⟩

/-- Settles O33: a run's step completes, a request is served, and nothing else gives a next state. -/
theorem onlyUnaskedStepsStop : Obligations.OnlyUnaskedStepsStop := by
  intro s hinv
  by_cases hp : s.phase = .running
  · exact iff_of_true (step_completes_of_running hinv hp) (.inl hp)
  · cases hr : s.requests with
    | nil =>
      obtain ⟨r, hrefused⟩ := step_refused_of_unasked hp hr
      refine iff_of_false ?_ ?_
      · rintro ⟨t, ht⟩
        cases hrefused.symm.trans ht
      · rintro (hrun | hne)
        · exact hp hrun
        · exact hne rfl
    | cons r rest => exact iff_of_true ⟨_, step_of_request hp hr⟩ (.inr (List.cons_ne_nil r rest))

/-- Settles O32: a step that completes is no fault, and one that stops under the invariant is a refusal. -/
theorem noStepFaultsUnderInvariant : Obligations.NoStepFaultsUnderInvariant := by
  intro s hinv f hfault
  by_cases hasked : s.phase = .running ∨ s.requests ≠ []
  · obtain ⟨t, ht⟩ := (onlyUnaskedStepsStop s hinv).mpr hasked
    cases ht.symm.trans hfault
  · obtain ⟨hp, hr⟩ := not_or.mp hasked
    obtain ⟨r, hrefused⟩ := step_refused_of_unasked hp (not_not.mp hr)
    cases hrefused.symm.trans hfault

end Sys2Proof.Machine
end

section
/-! PROOF. Whole runs (42_interpreter_fsm.md sections 4 and 5): the launch, one step for each complete group, and the end.
After `k` groups the state is that of the launch with `pos` and MEM as `afterGroups` says, and `endedRun` is the whole
state a run ends in, which holds nothing of what went before but ENC and the requests. -/

namespace Sys2Proof.Machine

/-! ## Streams as lists of groups -/

/-- The complete groups of a stream, by `3 * (N / 3)` bytes, decide its effect (R157). -/
theorem streamEffect_take_groups (stream : List Byte) (m : Memory) :
    streamEffect (stream.take (3 * (stream.length / 3))) m = streamEffect stream m := by
  match stream with
  | b0 :: b1 :: b2 :: rest =>
    have hlen : 3 * ((b0 :: b1 :: b2 :: rest).length / 3) = 3 * (rest.length / 3) + 1 + 1 + 1 := by
      simp only [List.length_cons]
      omega
    rw [hlen, List.take_succ_cons, List.take_succ_cons, List.take_succ_cons]
    exact streamEffect_take_groups rest _
  | [] | [_] | [_, _] => simp [streamEffect]

theorem streamEffect_eq_foldl (stream : List Byte) (m : Memory) :
    streamEffect stream m = (groupsOf stream).foldl (fun n g => groupEffect g n) m := by
  match stream with
  | b0 :: b1 :: b2 :: rest => exact streamEffect_eq_foldl rest _
  | [] | [_] | [_, _] => rfl

/-! ## The groups of a run, one step each -/

/-- A run of the stream after its first `k` groups (R161). -/
def afterGroups (k : Nat) (s : State) : State :=
  { s with pos := 3 * k, mem := streamEffect (s.stream.take (3 * k)) zeroedMemory }

theorem afterGroups_pos (k : Nat) (s : State) : (afterGroups k s).pos = 3 * k := rfl
theorem afterGroups_stream (k : Nat) (s : State) : (afterGroups k s).stream = s.stream := rfl

theorem step_afterGroups {s : State} (hp : s.phase = .running) {k : Nat} (hk : k < s.stream.length / 3) :
    step (afterGroups k s) = .next (afterGroups (k + 1) s) := by
  obtain ⟨g, hf⟩ : ∃ g, fetch (afterGroups k s) = some g := by
    apply exists_fetch_of_three_le
    rw [afterGroups_stream, afterGroups_pos]
    omega
  have hmem := streamEffect_take_add_three hf (Nat.mul_mod_right 3 k) zeroedMemory
  rw [step_of_fetch (s := afterGroups k s) hp hf, exec_decodeGroup]
  exact congrArg (fun m => Host.Outcome.next { s with pos := 3 * (k + 1), mem := m }) hmem.symm

theorem runSteps_afterGroups {s : State} (hp : s.phase = .running) {k : Nat} (hk : k ≤ s.stream.length / 3) :
    runSteps k (afterGroups 0 s) = .next (afterGroups k s) := by
  induction k with
  | zero => rfl
  | succ k ih =>
    rw [runSteps_add (ih (by omega)) 1, runSteps_succ_of_next (step_afterGroups hp hk), runSteps_zero]

/-- With every complete group consumed, MEM is the effect of the stream and the step is the end of the run. -/
theorem step_afterGroups_end {s : State} (hp : s.phase = .running)
    (hrange : s.rangeStart ≤ s.rangeEnd ∧ s.rangeEnd ≤ 256) :
    step (afterGroups (s.stream.length / 3) s) =
      .next { s with
        pos := 3 * (s.stream.length / 3)
        mem := streamEffect s.stream zeroedMemory
        phase := .done
        result := some (.cells (slicePairs (streamEffect s.stream zeroedMemory) s.rangeStart s.rangeEnd)) } := by
  have hshort : (afterGroups (s.stream.length / 3) s).stream.length <
      (afterGroups (s.stream.length / 3) s).pos + 3 := by
    rw [afterGroups_stream, afterGroups_pos]
    omega
  rw [step_of_fragment (s := afterGroups _ s) hp hshort, finishRun_of_bounded (s := afterGroups _ s) hrange, afterGroups,
    streamEffect_take_groups]

/-! ## The whole run -/

/-- The state an accepted run ends in (R156, R158): of the state before the launch it holds ENC and the requests. -/
def endedRun (stream : List Byte) (start stop : Nat) (s : State) : State :=
  { s with
    mem := streamEffect stream zeroedMemory, pos := 3 * (stream.length / 3), phase := .done, rangeStart := start,
    rangeEnd := stop, stream := stream,
    result := some (.cells (slicePairs (streamEffect stream zeroedMemory) start stop)) }

section
variable {s : State} {stream : List Byte} {start stop : Nat} {rest : List Request} (hp : s.phase ≠ .running)
  (hr : s.requests = .run stream start stop :: rest) (hrange : start ≤ stop ∧ stop ≤ 256)
include hp hr hrange

theorem runSteps_launch_groups {k : Nat} (hk : k ≤ stream.length / 3) :
    runSteps (k + 1) s = .next (afterGroups k (launchedRun stream start stop { s with requests := rest })) := by
  rw [runSteps_succ_of_next (step_of_legal_run hp hr hrange)]
  exact runSteps_afterGroups (s := launchedRun stream start stop { s with requests := rest }) rfl hk

theorem runSteps_accepted :
    runSteps (stream.length / 3 + 2) s = .next (endedRun stream start stop { s with requests := rest }) := by
  have hend := step_afterGroups_end (s := launchedRun stream start stop { s with requests := rest }) rfl hrange
  rw [runSteps_add (runSteps_launch_groups hp hr hrange le_rfl) 1]
  exact (runSteps_succ_of_next hend 0).trans (runSteps_zero _)

end

/-- Settles O35: the state after the launch and `k` groups, and the state the run ends in. -/
theorem acceptedRunEndsWithTheFoldOfItsGroups : Obligations.AcceptedRunEndsWithTheFoldOfItsGroups := by
  intro s stream start stop rest hp hr hle hmax
  refine ⟨fun k hk => ?groups, ?ended⟩
  case groups => exact ⟨_, runSteps_launch_groups hp hr ⟨hle, hmax⟩ hk, rfl, rfl⟩
  case ended => exact ⟨_, runSteps_accepted hp hr ⟨hle, hmax⟩, rfl, rfl, rfl, rfl, rfl, rfl, rfl⟩

/-! ## The closed form (R161) -/

/-- A cell after some groups holds what the last of them that stores to it stores, 0 where none does. -/
theorem cellAt_foldl_groupEffect (groups : List Group) (c : Nat) :
    cellAt (groups.foldl (fun m g => groupEffect g m) zeroedMemory) c =
      ((groups.reverse.find? (storesTo c)).map storedValue).getD 0 := by
  induction groups using List.reverseRecOn with
  | nil => rfl
  | append_singleton groups g ih =>
    rw [List.foldl_concat, cellAt_groupEffect, List.reverse_concat, List.find?_cons]
    cases storesTo c g with
    | true => rfl
    | false => exact ih

theorem cellAt_streamEffect (stream : List Byte) (c : Nat) :
    cellAt (streamEffect stream zeroedMemory) c = lastStored stream c := by
  rw [streamEffect_eq_foldl, cellAt_foldl_groupEffect, lastStored]
  cases (groupsOf stream).reverse.find? (storesTo c) <;> rfl

theorem lastStored_high {c : Nat} (hc : 8 ≤ c) (stream : List Byte) : lastStored stream c = 0 := by
  have hnone : (groupsOf stream).reverse.find? (storesTo c) = none :=
    List.find?_eq_none.mpr fun g _ => storesTo_high hc g
  rw [lastStored, hnone]

theorem cell?_endedRun (stream : List Byte) (start stop : Nat) (s : State) {c : Nat} (hc : c < 256) :
    (endedRun stream start stop s).cell? c = some (cellAt (streamEffect stream zeroedMemory) c) :=
  memRead_of_lt _ hc

/-- Settles O36: the final memory is the fold of the groups, and no group stores from cell 8 up. -/
theorem finalCellIsTheLastStoreToIt : Obligations.FinalCellIsTheLastStoreToIt := by
  intro s t stream start stop rest hp hr hle hmax ht c hc
  obtain rfl := Host.Outcome.next.inj ((runSteps_accepted hp hr ⟨hle, hmax⟩).symm.trans ht)
  rw [cell?_endedRun _ _ _ _ hc, cellAt_streamEffect]
  exact ⟨rfl, fun hhigh => by rw [lastStored_high hhigh]⟩

/-! ## What a run does not depend on -/

/-- A stream without its trailing fragment (R157). -/
def withoutFragment (stream : List Byte) : List Byte := stream.take (3 * (stream.length / 3))

theorem withoutFragment_groups (stream : List Byte) : (withoutFragment stream).length / 3 = stream.length / 3 := by
  rw [withoutFragment, List.length_take_of_le (Nat.mul_div_le _ _), Nat.mul_div_cancel_left _ (by decide)]

theorem streamEffect_withoutFragment (stream : List Byte) (m : Memory) :
    streamEffect (withoutFragment stream) m = streamEffect stream m :=
  streamEffect_take_groups stream m

/-- A run ends alike without the fragment, but for the stream held (log entry 3). -/
theorem endedRun_withoutFragment (stream : List Byte) (start stop : Nat) (s : State) :
    endedRun (withoutFragment stream) start stop s =
      { endedRun stream start stop s with stream := withoutFragment stream } := by
  simp only [endedRun, streamEffect_withoutFragment, withoutFragment_groups]

/-- Settles O37: without its fragment the stream has as many groups and the same effect; a refused launch holds no
stream. -/
theorem trailingFragmentHasNoEffect : Obligations.TrailingFragmentHasNoEffect := by
  rintro s s' stream start stop rest hp hr rfl
  refine ⟨fun hrange => ?accepted, fun hbad => ?refused⟩
  case accepted =>
    have hcut := runSteps_accepted (s := { s with requests := .run (withoutFragment stream) start stop :: rest })
      hp rfl hrange
    rw [withoutFragment_groups, endedRun_withoutFragment] at hcut
    exact ⟨_, _, runSteps_accepted hp hr hrange, hcut, rfl, rfl, rfl, rfl, rfl⟩
  case refused => exact ⟨_, step_of_illegal_run hp hr hbad, step_of_illegal_run hp rfl hbad, rfl⟩

/-- Settles O38: the state a run ends in, or the state of a refused launch, has nothing of INT from before. -/
theorem runResultDoesNotDependOnHistory : Obligations.RunResultDoesNotDependOnHistory := by
  intro s s' stream start stop rest rest' hp hp' hr hr'
  refine ⟨fun hrange => ?accepted, fun hbad => ?refused⟩
  case accepted =>
    exact ⟨_, _, runSteps_accepted hp hr hrange, runSteps_accepted hp' hr' hrange, rfl,
      rfl, rfl, rfl, rfl, rfl, rfl, rfl⟩
  case refused =>
    exact ⟨_, _, step_of_illegal_run hp hr hbad, step_of_illegal_run hp' hr' hbad, rfl,
      rfl, rfl, rfl, rfl, rfl, rfl, rfl⟩

end Sys2Proof.Machine
end

section
/-! PROOF. Assemble, then interpret the binary output (70_reset_and_hazards.md section 5): the bytes of the lines are the
groups of their packed words, and each group does to a cell what the masked fields of its line say. -/

namespace Sys2Proof.Machine

theorem groupsOf_toBytes_append (g : Group) (rest : List Byte) : groupsOf (g.toBytes ++ rest) = g :: groupsOf rest := rfl

theorem groupsOf_lineBytes (lines : List FieldSet) :
    groupsOf (lineBytes lines) = lines.map fun f => packedBytes (packFields f) := by
  induction lines with
  | nil => rfl
  | cons f lines ih => rw [lineBytes_cons, groupsOf_toBytes_append, ih, List.map_cons]

/-- The group of a line does to a cell what the line's masked fields say (R238). -/
theorem cellAt_groupEffect_packFields (f : FieldSet) (m : Memory) (c : Nat) :
    cellAt (groupEffect (packedBytes (packFields f)) m) c = lineCell f c (cellAt m c) := by
  obtain ⟨hA, hB, hC, hD⟩ := decodingEncodedFieldsGivesMaskedFields f
  simp only [recordOf] at hA hB hC hD
  have hop (op : BitVec 6) : (dec (packedBytes (packFields f))).opcode = op ↔ f.A % 64 = op.toNat := by
    rw [← BitVec.toNat_inj, ← hA, Nat.cast_inj]
  have hadd : (dec (packedBytes (packFields f))).opcode = 30#6 ↔ f.A % 64 = 30 := hop 30#6
  have hsub : (dec (packedBytes (packFields f))).opcode = 1#6 ↔ f.A % 64 = 1 := hop 1#6
  have hdest : (dec (packedBytes (packFields f))).arg1.toNat = c ↔ f.B % 8 = c := by
    rw [← hB, Nat.cast_inj]
  simp only [cellAt_groupEffect, storesTo_iff, storedValue, lineCell, hadd, hsub, hdest, hC, hD]
  by_cases hcell : f.B % 8 = c
  · simp only [hcell, and_true]
    by_cases hA30 : f.A % 64 = 30
    · simp only [hA30, true_or, if_true]
    · simp only [hA30, false_or, if_false]
  · simp only [hcell, and_false, if_false]

/-- The fold of the groups of the lines, cell by cell. -/
theorem cellAt_streamEffect_lineBytes (lines : List FieldSet) (m : Memory) (c : Nat) :
    cellAt (streamEffect (lineBytes lines) m) c = lines.foldl (fun v f => lineCell f c v) (cellAt m c) := by
  rw [streamEffect_eq_foldl, groupsOf_lineBytes, List.foldl_map]
  induction lines generalizing m with
  | nil => rfl
  | cons f lines ih => rw [List.foldl_cons, List.foldl_cons, ih, cellAt_groupEffect_packFields]

/-- The assembly and the run of its bytes, `(k + 1) + (k + 2)` steps, end as a run from some state that holds the lines'
records. -/
theorem runSteps_assembled_run {s : State} {lines : List FieldSet} {start stop : Nat} {rest : List Request}
    (hp : s.phase ≠ .running)
    (hr : s.requests = .beginAssembly :: (lines.map Request.encode ++ .run (lineBytes lines) start stop :: rest))
    (hrange : start ≤ stop ∧ stop ≤ 256) :
    ∃ u : State, u.batch = lines.map recordOf ∧ u.requests = rest ∧
      runSteps (2 * lines.length + 3) s = .next (endedRun (lineBytes lines) start stop u) := by
  have hasm := runSteps_assembly hp hr
  rw [assemble_eq] at hasm
  have hsteps : 2 * lines.length + 3 = (lines.length + 1) + ((lineBytes lines).length / 3 + 2) := by
    rw [lineBytes_length]
    omega
  rw [hsteps, runSteps_add hasm]
  exact ⟨_, rfl, rfl, runSteps_accepted Phase.noConfusion rfl hrange⟩

/-- Settles O39: the assembly, then the run of its bytes, which are one group a line. -/
theorem assembledLinesRunAsWritten : Obligations.AssembledLinesRunAsWritten := by
  intro s lines start stop rest hp hr hle hmax
  obtain ⟨u, hbatch, hrequests, hrun⟩ := runSteps_assembled_run hp hr ⟨hle, hmax⟩
  refine ⟨_, hrun, rfl, ?pos, ?stream, hrequests, fun c hc => ?cells⟩
  case pos =>
    show 3 * ((lineBytes lines).length / 3) = 3 * lines.length
    rw [lineBytes_length]
    omega
  case stream => exact (binaryOutput_of_batch hbatch).symm
  case cells =>
    rw [cell?_endedRun _ _ _ _ hc, cellAt_streamEffect_lineBytes]
    rfl

end Sys2Proof.Machine
end
